-- ==== Sys2Proof/Word.lean ====
section
/-!
DEFINITION. The binary numbers of the block: every port, every chunk and the two words that write a request or a
response as one number (00_scope.md R6, R7; 30_encoding.md R30, R41, R42; 40_chunking.md R46, R49). All unsigned, bit `i`
of weight `2^i`.
-/

namespace Sys2Proof

/-- An operand or a result: ports `a`, `b`, `result` (30_encoding.md R31). -/
abbrev Word := BitVec 53

/-- The operation select port `op` (30_encoding.md R33). -/
abbrev OpCode := BitVec 3

/-- The shift amount port `n` (30_encoding.md R32): 0 to 52 are amounts, 53 to 63 are invalid ones. -/
abbrev Amount := BitVec 6

/-- The status port `err` (30_encoding.md R37). -/
abbrev ErrCode := BitVec 2

/-- The lower chunk, bits 30 to 0 of an operand (40_chunking.md R45). -/
abbrev LowerChunk := BitVec 31

/-- The upper chunk, bits 52 to 31 of an operand (40_chunking.md R45). -/
abbrev UpperChunk := BitVec 22

/-- The 115-bit request word REQ (30_encoding.md R41). -/
abbrev RequestWord := BitVec 115

/-- The 55-bit response word RESP (30_encoding.md R42). -/
abbrev ResponseWord := BitVec 55

end Sys2Proof
end

