-- ==== Sys2Proof/Config.lean ====
section
/-!
DEFINITION. The constants of the block (00_scope.md R5), fixed: none is an option (R5, 90_conflicts.md C3). The open
parameter LATENCY (00_scope.md R6) is used by no rule and is not represented (70_reset_and_hazards.md R117; log entry 10);
HostValue is a type of Sys2Proof/Ports.lean (log entry 6). No operation has an open result, so there is no free value here.
-/

namespace Sys2Proof

/-- `WIDTH`. -/
abbrev Config.width : Nat := 53

/-- `LOWER_BITS`. -/
abbrev Config.lowerBits : Nat := 31

/-- `UPPER_BITS`. -/
abbrev Config.upperBits : Nat := 22

/-- `MAX53`. -/
abbrev Config.max53 : Nat := 2 ^ 53 - 1

/-- `P31`. -/
abbrev Config.p31 : Nat := 2 ^ 31

/-- `MASK31`. -/
abbrev Config.mask31 : Nat := 2 ^ 31 - 1

/-- `MASK22`. -/
abbrev Config.mask22 : Nat := 2 ^ 22 - 1

/-- `MAX_SHIFT`. -/
abbrev Config.maxShift : Nat := 52

end Sys2Proof
end

