-- ==== Sys2Proof/Machine/Chunks.lean ====
section
/-!
DEFINITION. The two internal units, chunk_splitter and chunk_recombiner, and the pattern every operation follows between
them (40_chunking.md R45 to R54): split each operand, compute on the chunks with the exact operators on naturals
(00_scope.md section 5, 40_chunking.md R52), recombine.
-/

namespace Sys2Proof.Machine

/-- A chunk pair: ephemeral inside one evaluation (10_state.md R15, 40_chunking.md R47). -/
structure ChunkPair where
  lower : LowerChunk
  upper : UpperChunk
  deriving DecidableEq, Repr

/-- chunk_splitter: `lower = a[30:0]`, `upper = a[52:31]` (40_chunking.md R45, R46). -/
def chunkSplit (a : Word) : ChunkPair where
  lower := a.extractLsb' 0 31
  upper := a.extractLsb' 31 22

/-- chunk_recombiner: `result = {upperResult, lowerResult}` (40_chunking.md R48, R49). It does not mask or check: its
inputs' widths are its precondition (40_chunking.md R50). -/
def chunkRecombine (c : ChunkPair) : Word :=
  c.upper ++ c.lower

/-- The pair of a lower and an upper chunk result computed as naturals. Every operation's results are in range
(40_chunking.md R50), so nothing is lost (log entry 15). -/
def ChunkPair.ofNats (r : Nat × Nat) : ChunkPair where
  lower := BitVec.ofNat 31 r.1
  upper := BitVec.ofNat 22 r.2

/-- Split, compute `(lowerResult, upperResult)` from `lower` and `upper`, recombine (40_chunking.md R53). -/
def onChunks (f : Nat → Nat → Nat × Nat) (a : Word) : Word :=
  let c := chunkSplit a
  chunkRecombine (.ofNats (f c.lower.toNat c.upper.toNat))

/-- The same for two operands and an operator that acts on each pair of chunks under the chunk's mask
(42_and_or_xor.md R60 to R63: the mask stands on each chunk result). -/
def onChunkPairs (f : Nat → Nat → Nat) (a b : Word) : Word :=
  let x := chunkSplit a
  let y := chunkSplit b
  chunkRecombine (.ofNats
    (f x.lower.toNat y.lower.toNat &&& Config.mask31, f x.upper.toNat y.upper.toNat &&& Config.mask22))

end Sys2Proof.Machine
end

