-- ==== Sys2Proof/Ports.lean ====
section
/-!
DEFINITION. What crosses the boundary of the block and what the host says in front of it: a request on the four input
ports and a response on the two output ports (30_encoding.md R30, R38), a call of the source's interface with host values
(30_encoding.md R39, 60_exceptions.md R92), and a line of the host's sequence (30_encoding.md R44, 60_exceptions.md R105).
-/

namespace Sys2Proof

/-- The four input ports, taken whole as one value (30_encoding.md R30, 20_memory.md R24). -/
structure Request where
  op : OpCode
  a  : Word
  b  : Word
  n  : Amount
  deriving DecidableEq, Repr

/-- The two errors: a closed set, carrying the kind and nothing else (60_exceptions.md R93, R95). -/
inductive ErrorKind where
  | invalidOperand
  | invalidShiftAmount
  deriving DecidableEq, Repr

/-- A response is a result or an error, never both: no value stands beside an error (30_encoding.md R38). -/
inductive Response where
  | ok (result : Word)
  | error (kind : ErrorKind)
  deriving DecidableEq, Repr

/-- A call-level argument before validation (60_exceptions.md R92): an integer, or not an integer, or a value the model
cannot classify as either (93_implementation_defined.md V7). DESIGN CHOICE, log entry 6: the smallest adequate domain. -/
inductive HostValue where
  | integer (z : Int)
  | notAnInteger
  | unclassified
  deriving DecidableEq, Repr

/-- A call of the source's interface (30_encoding.md, the six signatures quoted before R30). -/
inductive Call (α : Type) where
  | not (a : α)
  | and (a b : α)
  | or (a b : α)
  | xor (a b : α)
  | lshift (a n : α)
  | urshift (a n : α)
  deriving DecidableEq, Repr

/-- Where the pattern of an operand port comes from: written out, or copied from the `result` of the `k`-th exchange of
the run, counted from 0 (10_state.md R11; DESIGN CHOICE, log entry 9: a host variable is the number of its exchange). -/
inductive Source where
  | pattern (v : Word)
  | result (k : Nat)
  deriving DecidableEq, Repr

/-- Where a call's argument comes from: a host value, or an earlier `result`. -/
inductive CallArg where
  | value (v : HostValue)
  | result (k : Nat)
  deriving DecidableEq, Repr

/-- One line of the host's sequence: the four ports driven directly, or a call (00_scope.md R8, 60_exceptions.md R105). -/
inductive HostLine where
  | ports (op : OpCode) (a b : Source) (n : Amount)
  | call (c : Call CallArg)
  deriving DecidableEq, Repr

/-- The outcome of one check on one argument (60_exceptions.md R90 to R92). -/
inductive Checked (α : Type) where
  | valid (x : α)
  | invalid
  | unclassified
  deriving DecidableEq, Repr

/-- What the call-level validation makes of a call: a request, one error, or no answer (30_encoding.md R39). -/
inductive Admission where
  | request (r : Request)
  | rejected (e : ErrorKind)
  | unclassified
  deriving DecidableEq, Repr

end Sys2Proof
end

