-- ==== Sys2Proof/Syntax.lean ====
section
/-!
DEFINITION. The six operations of spec/opcode_table.json, each with the ports it uses (30_encoding.md R33, R34; an
ignored port is left out of the operation, 93_implementation_defined.md V4). Codes 6 and 7 select no operation and have no
constructor (30_encoding.md R36).
-/

namespace Sys2Proof

/-- One constructor per row of the opcode table. -/
inductive Instr where
  /-- NOT, `op` = 0 (41_not.md R55). -/
  | not (a : Word)
  /-- AND, `op` = 1 (42_and_or_xor.md R60). -/
  | and (a b : Word)
  /-- OR, `op` = 2 (42_and_or_xor.md R61). -/
  | or (a b : Word)
  /-- XOR, `op` = 3 (42_and_or_xor.md R62). -/
  | xor (a b : Word)
  /-- LSHIFT, `op` = 4 (43_lshift.md R70). -/
  | lshift (a : Word) (n : Amount)
  /-- URSHIFT, `op` = 5 (44_urshift.md R80). -/
  | urshift (a : Word) (n : Amount)
  deriving DecidableEq, Repr

end Sys2Proof
end

