-- ==== Sys2Proof/Machine/Flags.lean ====
section
/-!
DEFINITION. The output ports of a response. The block has no flag, condition code or status register (10_state.md R12); the
only status is the `err` value of the response itself (30_encoding.md R37), and `result` has a value only when `err` is 0
(30_encoding.md R38).
-/

namespace Sys2Proof

/-- The codes of the two errors (30_encoding.md R37, 60_exceptions.md R93). -/
def ErrorKind.code : ErrorKind → ErrCode
  | .invalidOperand => 1
  | .invalidShiftAmount => 2

/-- The status output `err` (30_encoding.md R37). -/
def Response.err : Response → ErrCode
  | .ok _ => 0
  | .error e => e.code

/-- The value of the `result` output, where it is defined (30_encoding.md R38). -/
def Response.value? : Response → Option Word
  | .ok v => some v
  | .error _ => none

end Sys2Proof
end

