-- ==== Sys2Proof/WellFormed.lean ====
section
/-!
DEFINITION. What may be presented. Every term of Instr is well formed by its types: each of the 2^53 patterns of an operand
port is an operand (30_encoding.md R31), and each of the 64 patterns of `n` can be put on the port, 53 to 63 included, which
are invalid amounts and not ill-formed requests (30_encoding.md R32). The checks are on what carries an operation: a request
(its code is not reserved), a response word (its status is one the block produces) and a line of the host (it names only
earlier results, an unreserved code and values that can be classified).
-/

namespace Sys2Proof

/-- The host keeps `op` in 0 to 5 (30_encoding.md R36, 60_exceptions.md R104). -/
def Request.wellFormed (r : Request) : Bool :=
  decide (r.op.toNat ≤ 5)

/-- `err` = 3 is never produced (30_encoding.md R37; 93_implementation_defined.md V3). -/
def ResponseWord.wellFormed (w : ResponseWord) : Bool :=
  decide (w.toNat % 4 ≠ 3)

/-- The exchanges an operand port's source reads. -/
def Source.reads : Source → List Nat
  | .pattern _ => []
  | .result k => [k]

/-- The exchanges a call's argument reads. -/
def CallArg.reads : CallArg → List Nat
  | .value _ => []
  | .result k => [k]

/-- The arguments of a call, in the order the source lists them. -/
def Call.args {α : Type} : Call α → List α
  | .not a => [a]
  | .and a b => [a, b]
  | .or a b => [a, b]
  | .xor a b => [a, b]
  | .lshift a n => [a, n]
  | .urshift a n => [a, n]

/-- The exchanges whose results a line reads. -/
def HostLine.reads : HostLine → List Nat
  | .ports _ a b _ => a.reads ++ b.reads
  | .call c => c.args.flatMap CallArg.reads

/-- A line that may stand after `k` exchanges: it names only those, no reserved code, and no value that cannot be
classified (30_encoding.md R36, R44; 60_exceptions.md R92). -/
def HostLine.wellFormed (k : Nat) (l : HostLine) : Bool :=
  l.reads.all (fun j => decide (j < k)) &&
    match l with
    | .ports op _ _ _ => decide (op.toNat ≤ 5)
    | .call c => c.args.all (fun x => decide (x ≠ .value .unclassified))

end Sys2Proof
end

