-- ==== Sys2Proof/Decode.lean ====
section
/-!
DEFINITION. From a request to its operation and back, and the two words that write a request and a response as one number
(30_encoding.md R33, R36, R41 to R43). One format and one length exist. A request is not made of bytes (20_memory.md R22),
so the decoder reads the four ports or the 115-bit word.
-/

namespace Sys2Proof

/-- Why a request has no operation. -/
inductive DecodeReject where
  /-- `op` is 6 or 7 (30_encoding.md R36). -/
  | reservedOp (op : OpCode)
  deriving DecidableEq, Repr

/-- Why a number writes no operation. -/
inductive WordReject where
  /-- It has more than the 115 bits of a request word (30_encoding.md R41; log entry 13). -/
  | tooWide
  /-- It writes a request that has no operation. -/
  | noOperation (why : DecodeReject)
  deriving DecidableEq, Repr

/-- Why a 55-bit number is no response word. -/
inductive ResponseReject where
  /-- `err` is 3 (30_encoding.md R37; 93_implementation_defined.md V3). -/
  | unusedStatus
  deriving DecidableEq, Repr

/-- The operation a request selects; its ignored ports are dropped (30_encoding.md R33 to R36). -/
def decode (r : Request) : Except DecodeReject Instr :=
  match r.op.toNat with
  | 0 => .ok (.not r.a)
  | 1 => .ok (.and r.a r.b)
  | 2 => .ok (.or r.a r.b)
  | 3 => .ok (.xor r.a r.b)
  | 4 => .ok (.lshift r.a r.n)
  | 5 => .ok (.urshift r.a r.n)
  | _ => .error (.reservedOp r.op)

/-- The ports of a request word `{a, b, n, op}` (30_encoding.md R41). -/
def Request.ofWord (w : RequestWord) : Request where
  op := w.extractLsb' 0 3
  n  := w.extractLsb' 3 6
  b  := w.extractLsb' 9 53
  a  := w.extractLsb' 62 53

/-- The operation a request word selects. -/
def decodeWord (w : RequestWord) : Except DecodeReject Instr :=
  decode (Request.ofWord w)

/-- The request a number writes, if it has at most 115 bits. -/
def Request.ofNat? (w : Nat) : Option Request :=
  if w < 2 ^ 115 then some (Request.ofWord (BitVec.ofNat 115 w)) else none

/-- The operation any number selects, or why it selects none. -/
def decodeNat (w : Nat) : Except WordReject Instr :=
  match Request.ofNat? w with
  | some r => (decode r).mapError .noOperation
  | none => .error .tooWide

/-- The operation read from a table row's bits, numbered as the table numbers them; bits from `nbits` up are 0. -/
def decodeTableWord (nbits w : Nat) : Option Instr :=
  match decodeNat (w % 2 ^ nbits) with
  | .ok i => some i
  | .error _ => none

/-- The request of an operation; ignored ports are driven with 0 (30_encoding.md R33, R35, R44; log entry 7). -/
def encode : Instr → Request
  | .not a => { op := 0, a := a, b := 0, n := 0 }
  | .and a b => { op := 1, a := a, b := b, n := 0 }
  | .or a b => { op := 2, a := a, b := b, n := 0 }
  | .xor a b => { op := 3, a := a, b := b, n := 0 }
  | .lshift a n => { op := 4, a := a, b := 0, n := n }
  | .urshift a n => { op := 5, a := a, b := 0, n := n }

/-- `REQ = a * 2^62 + b * 2^9 + n * 2^3 + op` (30_encoding.md R41). -/
def Request.toWord (r : Request) : RequestWord :=
  BitVec.ofNat 115 (r.a.toNat * 2 ^ 62 + r.b.toNat * 2 ^ 9 + r.n.toNat * 2 ^ 3 + r.op.toNat)

/-- The request word of an operation. -/
def encodeWord (i : Instr) : RequestWord :=
  (encode i).toWord

/-- `RESP = result * 2^2 + err` (30_encoding.md R42). When `err` is not 0 the upper bits are not defined: they are
`open53`, an argument that nothing constrains (log entry 5). -/
def encodeResponse (open53 : Word) (r : Response) : ResponseWord :=
  BitVec.ofNat 55 ((r.value?.getD open53).toNat * 2 ^ 2 + r.err.toNat)

/-- The response a response word writes (30_encoding.md R42); the upper bits are read only when `err` is 0. -/
def decodeResponse (w : ResponseWord) : Except ResponseReject Response :=
  match (w.extractLsb' 0 2).toNat with
  | 0 => .ok (.ok (w.extractLsb' 2 53))
  | 1 => .ok (.error .invalidOperand)
  | 2 => .ok (.error .invalidShiftAmount)
  | _ => .error .unusedStatus

end Sys2Proof
end

