-- ==== Sys2Proof/Machine/State.lean ====
section
/-!
DEFINITION. The state of the model. The block itself has none (10_state.md R10 to R18: "The set of state elements is
empty"); what changes while a host uses it are the lines the host has still to present and the exchanges it has had
(60_exceptions.md R105). Both stand outside the block: no response reads either, except where a line copies an earlier
result (DESIGN CHOICE, log entry 1).
-/

namespace Sys2Proof.Machine

/-- One exchange between the host and the block: an operation the block answered, with the response that belongs to it
(20_memory.md R24), or a call that its validation turned away in front of the ports, with the error (60_exceptions.md R97). -/
inductive Exchange where
  | answered (i : Instr) (r : Response)
  | rejectedCall (c : Call HostValue) (e : ErrorKind)
  deriving DecidableEq, Repr

/-- The host's side of the block's boundary (log entry 1). -/
structure State where
  /-- The lines the host will present, the next one first (60_exceptions.md R105). -/
  pending : List HostLine
  /-- The exchanges so far, oldest first (60_exceptions.md R105: "The final state of a run is the list of responses"). -/
  log : List Exchange
  deriving DecidableEq, Repr

/-- Why the model stops with a fault. The block never does: its two errors are responses (60_exceptions.md R100, R101), and
it is never stuck (70_reset_and_hazards.md R117, R118). -/
inductive Fault where
  /-- Raised by fetch for a line that copies the result of exchange `k` where there is no such result (no such exchange yet,
  or it ended in an error): the line "has no input" and is not presented (60_exceptions.md R105; log entry 8). An ignored port that copies such a result stops the line too (DESIGN
  CHOICE, log entry 19). Safe. -/
  | noResult (k : Nat)
  deriving DecidableEq, Repr

/-- Why the model gives no response. -/
inductive Refusal where
  /-- Raised by exec for an operation without a meaning in the model. Safe. No arm of exec does so. -/
  | notModelled (mnemonic : String)
  /-- Raised by step for a request whose `op` is 6 or 7, to which the spec gives no response (30_encoding.md R36). Safe. -/
  | reservedOp (op : OpCode)
  /-- Raised by step for a call with an argument that cannot be classified as an integer or not an integer
  (60_exceptions.md R92; 93_implementation_defined.md V7; 70_reset_and_hazards.md R118). Safe. -/
  | unclassifiedArgument
  deriving DecidableEq, Repr

/-- After power-up: the block has nothing to set (10_state.md R17, 70_reset_and_hazards.md R110), no line has been handed
over and there has been no exchange (DESIGN CHOICE, log entry 2). -/
def State.reset : State where
  pending := []
  log := []

end Sys2Proof.Machine
end

