-- ==== Sys2Proof/Machine/Ops.lean ====
section
/-!
DEFINITION. The named operations on the model's state: delivering a response, raising an error (the one shared operation
for what other machines call taking an exception: 60_exceptions.md R100), turning a call away, and the host's moves. There is
no return from an error and nothing to restore (60_exceptions.md R101), so no operation for it.
-/

namespace Sys2Proof

/-- The line that drives the four ports with request `r`. -/
def Request.line (r : Request) : HostLine :=
  .ports r.op (.pattern r.a) (.pattern r.b) r.n

end Sys2Proof

namespace Sys2Proof.Machine

/-- The response of operation `i` reaches the host (20_memory.md R24). -/
def State.deliver (i : Instr) (r : Response) (s : State) : State :=
  { s with log := s.log ++ [.answered i r] }

/-- An error in the block: the response has that error and no result; nothing is saved, nothing else changes
(60_exceptions.md R100), and the machine goes on (R101; log entry 4). -/
def State.raise (i : Instr) (e : ErrorKind) (s : State) : State :=
  s.deliver i (.error e)

/-- An error in front of the ports: the call gets the error and no request exists (60_exceptions.md R97). -/
def State.rejectCall (c : Call HostValue) (e : ErrorKind) (s : State) : State :=
  { s with log := s.log ++ [.rejectedCall c e] }

/-- The next line has been taken. -/
def State.advance (s : State) : State :=
  { s with pending := s.pending.tail }

/-- The host will present request `r` next. -/
def State.present (r : Request) (s : State) : State :=
  { s with pending := r.line :: s.pending }

/-- The response of an exchange: what the host reads. -/
def Exchange.response : Exchange → Response
  | .answered _ r => r
  | .rejectedCall _ e => .error e

/-- The responses of the run so far, oldest first (60_exceptions.md R105). -/
def State.responses (s : State) : List Response :=
  s.log.map Exchange.response

/-- The `result` of exchange `k`, where there is one (30_encoding.md R38, R44). -/
def State.resultOf (s : State) (k : Nat) : Option Word :=
  match s.log[k]? with
  | some x => x.response.value?
  | none => none

end Sys2Proof.Machine
end

