-- ==== Sys2Proof/Machine/Operands.lean ====
section
/-!
DEFINITION. The two checks (60_exceptions.md R90, R91), the validation of a call in the written order (R98), the map from a
call to a request (30_encoding.md R39), and where a line's operands come from (10_state.md R11).
-/

namespace Sys2Proof

/-- `ValidU53(v)` (60_exceptions.md R90): the range check and nothing more (90_conflicts.md C2). -/
def HostValue.validU53 : HostValue → Bool
  | .integer z => decide (0 ≤ z ∧ z ≤ Config.max53)
  | .notAnInteger => false
  | .unclassified => false

/-- `ValidShift(v)` (60_exceptions.md R91). -/
def HostValue.validShift : HostValue → Bool
  | .integer z => decide (0 ≤ z ∧ z < Config.width)
  | .notAnInteger => false
  | .unclassified => false

/-- `ValidShift` on the port: only `n < 53` can fail there (60_exceptions.md R91, R99). -/
def Amount.valid (n : Amount) : Bool :=
  decide (n.toNat < Config.width)

/-- The unsigned number a valid argument puts on its port, unchanged (30_encoding.md R39). -/
def HostValue.toPort (w : Nat) : HostValue → BitVec w
  | .integer z => BitVec.ofNat w z.toNat
  | .notAnInteger => 0
  | .unclassified => 0

/-- The operand check of one argument; a value that cannot be classified passes no judgement (60_exceptions.md R92). -/
def HostValue.checkU53 (v : HostValue) : Checked Word :=
  if v = .unclassified then .unclassified
  else if v.validU53 then .valid (v.toPort 53) else .invalid

/-- The shift check of one argument. -/
def HostValue.checkShift (v : HostValue) : Checked Amount :=
  if v = .unclassified then .unclassified
  else if v.validShift then .valid (v.toPort 6) else .invalid

/-- Go on with the valid argument; the first failure is the one reported (60_exceptions.md R98). -/
def Checked.orReject {α : Type} (c : Checked α) (e : ErrorKind) (go : α → Admission) : Admission :=
  match c with
  | .valid x => go x
  | .invalid => .rejected e
  | .unclassified => .unclassified

/-- Two operands, the first checked first (30_encoding.md R39; ignored port `n` driven with 0, log entry 7). -/
def validateTwo (op : OpCode) (a b : HostValue) : Admission :=
  a.checkU53.orReject .invalidOperand fun x =>
    b.checkU53.orReject .invalidOperand fun y =>
      .request { op := op, a := x, b := y, n := 0 }

/-- An operand, then a shift amount, checked whole in front of the ports (30_encoding.md R39; log entry 17; ignored port `b`
driven with 0, log entry 7). -/
def validateShift (op : OpCode) (a n : HostValue) : Admission :=
  a.checkU53.orReject .invalidOperand fun x =>
    n.checkShift.orReject .invalidShiftAmount fun k =>
      .request { op := op, a := x, b := 0, n := k }

/-- The call level in front of the ports (30_encoding.md R39; the order of 60_exceptions.md R98, log entry 14). -/
def validateCall : Call HostValue → Admission
  | .not a =>
    a.checkU53.orReject .invalidOperand fun x => .request { op := 0, a := x, b := 0, n := 0 }
  | .and a b => validateTwo 1 a b
  | .or a b => validateTwo 2 a b
  | .xor a b => validateTwo 3 a b
  | .lshift a n => validateShift 4 a n
  | .urshift a n => validateShift 5 a n

namespace Machine

/-- The pattern a source puts on an operand port, or the exchange whose result is missing (60_exceptions.md R105). -/
def readSource (s : State) : Source → Except Nat Word
  | .pattern v => .ok v
  | .result k =>
    match s.resultOf k with
    | some v => .ok v
    | none => .error k

/-- The host value of a call's argument; a result is the integer it is (30_encoding.md R38: always in range). -/
def readArg (s : State) : CallArg → Except Nat HostValue
  | .value v => .ok v
  | .result k =>
    match s.resultOf k with
    | some v => .ok (.integer v.toNat)
    | none => .error k

/-- Both values, or the first that is missing. -/
def both {α β γ : Type} (f : α → β → γ) (x : Except Nat α) (y : Except Nat β) : Except Nat γ :=
  match x with
  | .error k => .error k
  | .ok u =>
    match y with
    | .error k => .error k
    | .ok v => .ok (f u v)

/-- A call with every argument read. -/
def readCall (s : State) : Call CallArg → Except Nat (Call HostValue)
  | .not a => (readArg s a).map .not
  | .and a b => both .and (readArg s a) (readArg s b)
  | .or a b => both .or (readArg s a) (readArg s b)
  | .xor a b => both .xor (readArg s a) (readArg s b)
  | .lshift a n => both .lshift (readArg s a) (readArg s n)
  | .urshift a n => both .urshift (readArg s a) (readArg s n)

end Machine

end Sys2Proof
end

