-- ==== Sys2Proof/Machine/Bitwise.lean ====
section
/-!
DEFINITION. The units bitwise_not_53b, bitwise_and_53b, bitwise_or_53b and bitwise_xor_53b (41_not.md, 42_and_or_xor.md) and
the meanings of NOT, AND, OR and XOR. At the ports these raise nothing (30_encoding.md R34); at the call level
`validateCall` stands in front of them.
-/

namespace Sys2Proof.Machine

/-- The `k`-bit complement `2^k - 1 - x` of a natural below `2^k` (00_scope.md section 5). -/
def complement (k x : Nat) : Nat :=
  2 ^ k - 1 - x

/-- The chunk results of NOT, each under its chunk's mask (41_not.md R55). -/
def notChunks (lower upper : Nat) : Nat × Nat :=
  (complement 31 lower &&& Config.mask31, complement 22 upper &&& Config.mask22)

/-- bitwise_not_53b (41_not.md R55). -/
def bitwiseNot53 (a : Word) : Word :=
  onChunks notChunks a

/-- bitwise_and_53b (42_and_or_xor.md R60). -/
def bitwiseAnd53 (a b : Word) : Word :=
  onChunkPairs (fun x y => x &&& y) a b

/-- bitwise_or_53b (42_and_or_xor.md R61). -/
def bitwiseOr53 (a b : Word) : Word :=
  onChunkPairs (fun x y => x ||| y) a b

/-- bitwise_xor_53b (42_and_or_xor.md R62). -/
def bitwiseXor53 (a b : Word) : Word :=
  onChunkPairs (fun x y => x ^^^ y) a b

/-- The response of NOT (41_not.md R55). -/
def answerNot (a : Word) : Response :=
  .ok (bitwiseNot53 a)

/-- The response of AND (42_and_or_xor.md R60). -/
def answerAnd (a b : Word) : Response :=
  .ok (bitwiseAnd53 a b)

/-- The response of OR (42_and_or_xor.md R61). -/
def answerOr (a b : Word) : Response :=
  .ok (bitwiseOr53 a b)

/-- The response of XOR (42_and_or_xor.md R62). -/
def answerXor (a b : Word) : Response :=
  .ok (bitwiseXor53 a b)

/-- NOT (41_not.md R55). -/
def execNot (a : Word) (s : State) : Host.Outcome State Fault Refusal :=
  .next (s.deliver (.not a) (answerNot a))

/-- AND (42_and_or_xor.md R60). -/
def execAnd (a b : Word) (s : State) : Host.Outcome State Fault Refusal :=
  .next (s.deliver (.and a b) (answerAnd a b))

/-- OR (42_and_or_xor.md R61). -/
def execOr (a b : Word) (s : State) : Host.Outcome State Fault Refusal :=
  .next (s.deliver (.or a b) (answerOr a b))

/-- XOR (42_and_or_xor.md R62). -/
def execXor (a b : Word) (s : State) : Host.Outcome State Fault Refusal :=
  .next (s.deliver (.xor a b) (answerXor a b))

end Sys2Proof.Machine
end

