-- ==== Sys2Proof/Machine/Shift.lean ====
section
/-!
DEFINITION. The units logical_left_shift_53b and logical_right_shift_53b (43_lshift.md, 44_urshift.md) and the meanings of
LSHIFT and URSHIFT. The amount is checked before the split (60_exceptions.md R96); an invalid one raises
InvalidShiftAmount, and the run goes on (60_exceptions.md R100, R101).
-/

namespace Sys2Proof.Machine

/-- The chunk results of LSHIFT in its three regimes (43_lshift.md R70 to R73), as the source writes them (R76). -/
def leftShiftChunks (n lower upper : Nat) : Nat × Nat :=
  if 31 ≤ n then
    (0, (lower &&& (2 ^ (53 - n) - 1)) <<< (n - 31))
  else if 22 ≤ n then
    ((lower &&& (2 ^ (31 - n) - 1)) <<< n, (lower >>> (31 - n)) &&& Config.mask22)
  else
    ((lower <<< n) &&& Config.mask31, ((upper <<< n) ||| (lower >>> (31 - n))) &&& Config.mask22)

/-- The chunk results of URSHIFT in its three regimes (44_urshift.md R80 to R83). -/
def rightShiftChunks (n lower upper : Nat) : Nat × Nat :=
  if 31 ≤ n then
    (upper >>> (n - 31), 0)
  else if 22 ≤ n then
    ((lower >>> n) ||| (upper <<< (31 - n)), 0)
  else
    ((lower >>> n) ||| ((upper &&& (2 ^ n - 1)) <<< (31 - n)), upper >>> n)

/-- logical_left_shift_53b, for a valid amount (43_lshift.md R70). -/
def logicalLeftShift53 (a : Word) (n : Amount) : Word :=
  onChunks (leftShiftChunks n.toNat) a

/-- logical_right_shift_53b, for a valid amount (44_urshift.md R80). -/
def logicalRightShift53 (a : Word) (n : Amount) : Word :=
  onChunks (rightShiftChunks n.toNat) a

/-- The response of LSHIFT: validate, then compute (43_lshift.md R70, R79). -/
def answerLshift (a : Word) (n : Amount) : Response :=
  if n.valid then .ok (logicalLeftShift53 a n) else .error .invalidShiftAmount

/-- The response of URSHIFT: validate, then compute (44_urshift.md R80, R88). -/
def answerUrshift (a : Word) (n : Amount) : Response :=
  if n.valid then .ok (logicalRightShift53 a n) else .error .invalidShiftAmount

/-- LSHIFT (43_lshift.md R70). -/
def execLshift (a : Word) (n : Amount) (s : State) : Host.Outcome State Fault Refusal :=
  if n.valid then .next (s.deliver (.lshift a n) (.ok (logicalLeftShift53 a n)))
  else .next (s.raise (.lshift a n) .invalidShiftAmount)

/-- URSHIFT (44_urshift.md R80). -/
def execUrshift (a : Word) (n : Amount) (s : State) : Host.Outcome State Fault Refusal :=
  if n.valid then .next (s.deliver (.urshift a n) (.ok (logicalRightShift53 a n)))
  else .next (s.raise (.urshift a n) .invalidShiftAmount)

end Sys2Proof.Machine
end

