-- ==== Sys2Proof/Machine/Dispatch.lean ====
section
/-!
DEFINITION. One arm per operation of the opcode table (30_encoding.md R33), each a direct call of its meaning.
-/

namespace Sys2Proof.Machine

def exec (i : Instr) (s : State) : Host.Outcome State Fault Refusal :=
  match i with
  | .not a => Sys2Proof.Machine.execNot a s
  | .and a b => Sys2Proof.Machine.execAnd a b s
  | .or a b => Sys2Proof.Machine.execOr a b s
  | .xor a b => Sys2Proof.Machine.execXor a b s
  | .lshift a n => Sys2Proof.Machine.execLshift a n s
  | .urshift a n => Sys2Proof.Machine.execUrshift a n s

end Sys2Proof.Machine
end

