-- ==== Sys2Proof/Machine/Fetch.lean ====
section
/-!
DEFINITION. What the host presents next. The block fetches nothing itself (10_state.md R11); this is the host's side of one
step: the next line, with the earlier results it names put in place and, for a call, its arguments validated in front of the
ports (30_encoding.md R39, 60_exceptions.md R99, R104).
-/

namespace Sys2Proof.Machine

/-- What stands at the ports. -/
inductive Fetched where
  /-- No line is left: nothing is presented. -/
  | idle
  /-- A request on the four ports. -/
  | request (r : Request)
  /-- A call turned away in front of the ports. -/
  | rejected (c : Call HostValue) (e : ErrorKind)
  /-- A call with an argument that cannot be classified. -/
  | unclassified
  /-- A line that copies the result of exchange `k`, which has none. -/
  | noResult (k : Nat)
  deriving DecidableEq, Repr

/-- A call with its arguments read, after validation (30_encoding.md R39). -/
def fetchCall (c : Call HostValue) : Fetched :=
  match validateCall c with
  | .request r => .request r
  | .rejected e => .rejected c e
  | .unclassified => .unclassified

/-- One line of the host. Every source the line names is read first, the source of an ignored port and of a line with a
reserved code too: where one is missing the line is not presented and stops with noResult (DESIGN CHOICE, log entry 19;
30_encoding.md R35 and 60_exceptions.md R105 do not say what a line is whose ignored port names a missing result). A call reads
every argument before its first check (log entry 19). -/
def fetchLine (s : State) : HostLine → Fetched
  | .ports op a b n =>
    match both (fun x y => ({ op := op, a := x, b := y, n := n } : Request)) (readSource s a) (readSource s b) with
    | .ok r => .request r
    | .error k => .noResult k
  | .call c =>
    match readCall s c with
    | .ok c' => fetchCall c'
    | .error k => .noResult k

/-- The next line of the host, if there is one. -/
def fetch (s : State) : Fetched :=
  match s.pending with
  | [] => .idle
  | l :: _ => fetchLine s l

/-- The state in which the host presents the request a number writes; a number of more than 115 bits writes none, and the
state stays (log entry 13). -/
def placeWord (s : State) (w : Nat) : State :=
  match Request.ofNat? w with
  | some r => s.present r
  | none => s

end Sys2Proof.Machine
end

