-- ==== Sys2Proof/Machine/Step.lean ====
section
/-!
DEFINITION. One step: the host presents its next line, and the block evaluates the request whole, in one atomic step, and
answers it (20_memory.md R24, 70_reset_and_hazards.md R116).
-/

namespace Sys2Proof.Machine

/-- One exchange. With no line left nothing happens: no response arrives without a request (60_exceptions.md R96, R105; log
entry 3). -/
def step (s : State) : Host.Outcome State Fault Refusal :=
  match fetch s with
  | .idle => .next s
  | .request r =>
    match decode r with
    | .ok i => exec i s.advance
    | .error (.reservedOp op) => .refused (.reservedOp op)
  | .rejected c e => .next (s.advance.rejectCall c e)
  | .unclassified => .refused .unclassifiedArgument
  | .noResult k => .fault (.noResult k)

/-- The state whose next step presents the request word `w` (bits from `nbits` up are 0), ahead of every other line. -/
def State.withFetchWord (s : State) (nbits w : Nat) : State :=
  placeWord s (w % 2 ^ nbits)

end Sys2Proof.Machine
end

