-- ==== Sys2Proof/Machine/Assembly.lean ====
section
/-!
DEFINITION. The request-level assembly of 30_encoding.md R44: a mnemonic in upper case and the used ports in the order of the
call, as numbers in decimal, `0x` hexadecimal or `0b` binary; ignored ports assemble to 0; `name = …` names the result for
later lines. Text is a list of characters. What R44 does not fix (spaces, letters of a hexadecimal number, what a name may
be) is DESIGN CHOICE, log entry 16. No pseudo-instruction exists.
-/

namespace Sys2Proof.Machine

/-- Why a line does not assemble. -/
inductive AsmReject where
  | unknownMnemonic
  /-- Not a number and not a name the host has. -/
  | unknownOperand
  /-- More or fewer operands than the operation uses. -/
  | wrongOperands
  /-- A number that has no pattern on its port (30_encoding.md R31, R32). -/
  | outOfRange
  deriving DecidableEq, Repr

/-- An operand: a number, or the result of exchange `k` of the run. -/
inductive AsmOperand where
  | number (v : Nat)
  | result (k : Nat)
  deriving DecidableEq, Repr

/-- The host's variables: what each name stands for, the latest first. -/
abbrev AsmNames := List (List Char × AsmOperand)

/-- The value of a digit, letters in either case (log entry 16); 16 for what is none. -/
def digitValue (c : Char) : Nat :=
  if 48 ≤ c.toNat ∧ c.toNat ≤ 57 then c.toNat - 48
  else if 97 ≤ c.toNat ∧ c.toNat ≤ 102 then c.toNat - 87
  else if 65 ≤ c.toNat ∧ c.toNat ≤ 70 then c.toNat - 55
  else 16

/-- The number written by digits of a base, after those already read. -/
def readDigits (base acc : Nat) : List Char → Option Nat
  | [] => some acc
  | c :: cs => if digitValue c < base then readDigits base (acc * base + digitValue c) cs else none

/-- An unsigned number in decimal, `0x` hexadecimal or `0b` binary (30_encoding.md R44). -/
def readNumber : List Char → Option Nat
  | [] => none
  | '0' :: 'x' :: c :: cs => readDigits 16 0 (c :: cs)
  | '0' :: 'b' :: c :: cs => readDigits 2 0 (c :: cs)
  | c :: cs => readDigits 10 0 (c :: cs)

/-- A number, or a name of the host's. A text that is a number is read as the number, also where the host has that text as a
name (DESIGN CHOICE, log entry 16). -/
def readOperand (names : AsmNames) (text : List Char) : Except AsmReject AsmOperand :=
  match readNumber text with
  | some v => .ok (.number v)
  | none =>
    match names.lookup text with
    | some x => .ok x
    | none => .error .unknownOperand

/-- An operand on port `a` or `b`. -/
def operandSource : AsmOperand → Except AsmReject Source
  | .number v => if v < 2 ^ 53 then .ok (.pattern (BitVec.ofNat 53 v)) else .error .outOfRange
  | .result k => .ok (.result k)

/-- An operand as a call's argument. -/
def operandArg : AsmOperand → CallArg
  | .number v => .value (.integer v)
  | .result k => .result k

/-- A line of AND, OR or XOR. -/
def assembleTwo (op : OpCode) : List AsmOperand → Except AsmReject HostLine
  | [a, b] =>
    match operandSource a, operandSource b with
    | .ok x, .ok y => .ok (.ports op x y 0)
    | .error e, _ => .error e
    | _, .error e => .error e
  | _ => .error .wrongOperands

/-- A line of LSHIFT or URSHIFT. An amount copied from an earlier result may not fit the port, so that line is the call,
whose check stands in front of the ports (60_exceptions.md R99; DESIGN CHOICE, log entry 16). -/
def assembleShift (op : OpCode) (call : CallArg → CallArg → Call CallArg) :
    List AsmOperand → Except AsmReject HostLine
  | [a, .number v] =>
    match operandSource a with
    | .ok x => if v < 2 ^ 6 then .ok (.ports op x (.pattern 0) (BitVec.ofNat 6 v)) else .error .outOfRange
    | .error e => .error e
  | [a, .result k] =>
    match operandSource a with
    | .ok _ => .ok (.call (call (operandArg a) (.result k)))
    | .error e => .error e
  | _ => .error .wrongOperands

/-- A line of NOT. -/
def assembleOne : List AsmOperand → Except AsmReject HostLine
  | [a] => (operandSource a).map fun x => .ports 0 x (.pattern 0) 0
  | _ => .error .wrongOperands

/-- The six mnemonics (30_encoding.md R33, R44). -/
def assembleOperands : List Char → List AsmOperand → Except AsmReject HostLine
  | ['N', 'O', 'T'], xs => assembleOne xs
  | ['A', 'N', 'D'], xs => assembleTwo 1 xs
  | ['O', 'R'], xs => assembleTwo 2 xs
  | ['X', 'O', 'R'], xs => assembleTwo 3 xs
  | ['L', 'S', 'H', 'I', 'F', 'T'], xs => assembleShift 4 .lshift xs
  | ['U', 'R', 'S', 'H', 'I', 'F', 'T'], xs => assembleShift 5 .urshift xs
  | _, _ => .error .unknownMnemonic

/-- The text without the spaces around it. -/
def trimSpaces (text : List Char) : List Char :=
  ((text.dropWhile (· == ' ')).reverse.dropWhile (· == ' ')).reverse

/-- The pieces of a text between a character. -/
def piecesAt (sep : Char) : List Char → List (List Char)
  | [] => [[]]
  | c :: cs =>
    if c = sep then [] :: piecesAt sep cs
    else
      match piecesAt sep cs with
      | [] => [[c]]
      | p :: ps => (c :: p) :: ps

/-- Every operand of a list, or the first that is none. -/
def readOperands (names : AsmNames) : List (List Char) → Except AsmReject (List AsmOperand)
  | [] => .ok []
  | t :: ts =>
    match readOperand names t with
    | .error e => .error e
    | .ok x => (readOperands names ts).map (x :: ·)

/-- A mnemonic and its operands. -/
def assembleBody (names : AsmNames) (text : List Char) : Except AsmReject HostLine :=
  let body := trimSpaces text
  match readOperands names ((piecesAt ',' (body.dropWhile (· != ' '))).map trimSpaces) with
  | .ok xs => assembleOperands (body.takeWhile (· != ' ')) xs
  | .error e => .error e

/-- One line, with the name it gives its result, if it gives one. The name is whatever stands before the equals sign, without
the spaces around it, and nothing about it is checked: `5 = NOT 3` assembles, and a later `NOT 5` reads the number 5 and never
that result (DESIGN CHOICE, log entry 16; 30_encoding.md R44 does not say what a name may be). -/
def assembleLine (names : AsmNames) (text : List Char) : Except AsmReject (Option (List Char) × HostLine) :=
  match piecesAt '=' text with
  | [body] => (assembleBody names body).map (none, ·)
  | [name, body] => (assembleBody names body).map (some (trimSpaces name), ·)
  | _ => .error .wrongOperands

/-- The names after a line that will be exchange `k` of the run. -/
def namesAfter (k : Nat) (names : AsmNames) : Option (List Char) → AsmNames
  | some name => (name, .result k) :: names
  | none => names

/-- An operation written out: its mnemonic and the ports it uses, in the order of the call, in decimal. -/
def writeLine : Instr → List Char
  | .not a => ['N', 'O', 'T', ' '] ++ Nat.toDigits 10 a.toNat
  | .and a b => ['A', 'N', 'D', ' '] ++ Nat.toDigits 10 a.toNat ++ [',', ' '] ++ Nat.toDigits 10 b.toNat
  | .or a b => ['O', 'R', ' '] ++ Nat.toDigits 10 a.toNat ++ [',', ' '] ++ Nat.toDigits 10 b.toNat
  | .xor a b => ['X', 'O', 'R', ' '] ++ Nat.toDigits 10 a.toNat ++ [',', ' '] ++ Nat.toDigits 10 b.toNat
  | .lshift a n =>
    ['L', 'S', 'H', 'I', 'F', 'T', ' '] ++ Nat.toDigits 10 a.toNat ++ [',', ' '] ++ Nat.toDigits 10 n.toNat
  | .urshift a n =>
    ['U', 'R', 'S', 'H', 'I', 'F', 'T', ' '] ++ Nat.toDigits 10 a.toNat ++ [',', ' '] ++ Nat.toDigits 10 n.toNat

/-- A host sequence (30_encoding.md R44), whose first line will be exchange `k` of the run. -/
def assembleFrom (k : Nat) (names : AsmNames) : List (List Char) → Except AsmReject (List HostLine)
  | [] => .ok []
  | t :: ts =>
    match assembleLine names t with
    | .error e => .error e
    | .ok (name, line) => (assembleFrom (k + 1) (namesAfter k names name) ts).map (line :: ·)

end Sys2Proof.Machine
end

