-- ==== Sys2Proof/Machine/Copies.lean ====
section
/-!
DEFINITION. Several copies of the block, each with its own host lines and exchanges: the product of independent evaluations
(60_exceptions.md R108, 20_memory.md R26). Copies have no identifier of their own; the place in the list is the platform's (DESIGN CHOICE, log
entry 18).
-/

namespace Sys2Proof.Machine

/-- One copy takes a step while the others stand still; none where that copy is missing or stops. -/
def stepCopy (j : Nat) (copies : List State) : Option (List State) :=
  match copies[j]? with
  | none => none
  | some s =>
    match step s with
    | .next t => some (copies.set j t)
    | .fault _ => none
    | .refused _ => none

/-- Copies take steps in a given order; none where one of them stops. -/
def stepCopies : List Nat → List State → Option (List State)
  | [], copies => some copies
  | j :: js, copies => (stepCopy j copies).bind (stepCopies js)

end Sys2Proof.Machine
end

