-- ==== Sys2Proof/Machine/Native.lean ====
section
/-!
DEFINITION. The 32-bit datapath of 40_chunking.md R52: the same chunk formulas with every operator's result wrapped to 32
bits and read as a signed number (PRESUMED, log entry 12: 93_implementation_defined.md G2, general knowledge about the host's
native operators). The machine does not use it; it stands here so that R52's claim can be stated and proved.
-/

namespace Sys2Proof.Machine

/-- A native value: 32 bits, read as signed by `BitVec.toInt`. -/
abbrev Native := BitVec 32

/-- A chunk, a mask or a chunk result as a native value. -/
def Native.ofNat (x : Nat) : Native :=
  BitVec.ofNat 32 x

/-- Native left shift: wraps to 32 bits. -/
def Native.shl (x : Native) (k : Nat) : Native :=
  x <<< k

/-- Native right shift of a signed number: the sign fills. -/
def Native.shr (x : Native) (k : Nat) : Native :=
  x.sshiftRight k

/-- The chunk results as the signed numbers the native operators leave (40_chunking.md R52). -/
abbrev NativeResults := Int × Int

/-- NOT with native operators (41_not.md R55: the mask keeps the sign bits out). -/
def notNative (lower upper : Nat) : NativeResults :=
  ((~~~(Native.ofNat lower) &&& Native.ofNat Config.mask31).toInt,
    (~~~(Native.ofNat upper) &&& Native.ofNat Config.mask22).toInt)

/-- AND, OR or XOR of one pair of chunks with native operators. -/
def pairNative (f : Native → Native → Native) (mask x y : Nat) : Int :=
  (f (Native.ofNat x) (Native.ofNat y) &&& Native.ofNat mask).toInt

/-- LSHIFT with native operators (43_lshift.md R71 to R73). -/
def leftShiftNative (n lower upper : Nat) : NativeResults :=
  let l := Native.ofNat lower
  let u := Native.ofNat upper
  if 31 ≤ n then
    (0, ((l &&& Native.ofNat (2 ^ (53 - n) - 1)).shl (n - 31)).toInt)
  else if 22 ≤ n then
    (((l &&& Native.ofNat (2 ^ (31 - n) - 1)).shl n).toInt, (l.shr (31 - n) &&& Native.ofNat Config.mask22).toInt)
  else
    ((l.shl n &&& Native.ofNat Config.mask31).toInt, ((u.shl n ||| l.shr (31 - n)) &&& Native.ofNat Config.mask22).toInt)

/-- URSHIFT with native operators (44_urshift.md R81 to R83). -/
def rightShiftNative (n lower upper : Nat) : NativeResults :=
  let l := Native.ofNat lower
  let u := Native.ofNat upper
  if 31 ≤ n then
    ((u.shr (n - 31)).toInt, 0)
  else if 22 ≤ n then
    ((l.shr n ||| u.shl (31 - n)).toInt, 0)
  else
    ((l.shr n ||| (u &&& Native.ofNat (2 ^ n - 1)).shl (31 - n)).toInt, (u.shr n).toInt)

/-- Chunk results as exact signed numbers, to compare. -/
def exactResults (r : Nat × Nat) : NativeResults :=
  ((r.1 : Int), (r.2 : Int))

end Sys2Proof.Machine
end

