-- ==== Sys2Proof/Machine/Eval.lean ====
section
/-!
DEFINITION. The block as the pure function the spec says it is (10_state.md R16: "eval : Request -> Response"), with no state
in sight: of an operation, of a request, and of a call.
-/

namespace Sys2Proof.Machine

/-- The response of an operation (10_state.md R16, 40_chunking.md R53). -/
def respond : Instr → Response
  | .not a => answerNot a
  | .and a b => answerAnd a b
  | .or a b => answerOr a b
  | .xor a b => answerXor a b
  | .lshift a n => answerLshift a n
  | .urshift a n => answerUrshift a n

/-- The response of a request; none for a reserved code (10_state.md R16, 30_encoding.md R36). -/
def eval (r : Request) : Option Response :=
  match decode r with
  | .ok i => some (respond i)
  | .error _ => none

/-- The answer of a call: the response of its request, or the error of its validation; none where an argument cannot be
classified (30_encoding.md R39, 60_exceptions.md R92). -/
def evalCall (c : Call HostValue) : Option Response :=
  match validateCall c with
  | .request r => eval r
  | .rejected e => some (.error e)
  | .unclassified => none

end Sys2Proof.Machine
end

