-- ==== Sys2Proof/Safety.lean ====
section
/-!
DEFINITION. What a right run is, said without chunks: the plain 53-bit meaning of each operation (41_not.md R56,
42_and_or_xor.md R64, 43_lshift.md R75, 44_urshift.md R85, with the amount's check of 60_exceptions.md R91), of each call
turned away (60_exceptions.md R98) or refused (70_reset_and_hazards.md R118), and of a log of exchanges.
-/

namespace Sys2Proof

/-- The plain 53-bit meaning of an operation. -/
def plainResponse : Instr → Response
  | .not a => .ok (BitVec.ofNat 53 (2 ^ 53 - 1 - a.toNat))
  | .and a b => .ok (a &&& b)
  | .or a b => .ok (a ||| b)
  | .xor a b => .ok (a ^^^ b)
  | .lshift a n =>
    if n.toNat ≤ 52 then .ok (BitVec.ofNat 53 (a.toNat * 2 ^ n.toNat)) else .error .invalidShiftAmount
  | .urshift a n =>
    if n.toNat ≤ 52 then .ok (BitVec.ofNat 53 (a.toNat / 2 ^ n.toNat)) else .error .invalidShiftAmount

/-- The argument is an integer or not an integer, and fails `ValidU53` (60_exceptions.md R90, R92). -/
abbrev HostValue.FailsU53 (v : HostValue) : Prop :=
  v ≠ .unclassified ∧ v.validU53 = false

/-- The argument is an integer or not an integer, and fails `ValidShift` (60_exceptions.md R91, R92). -/
abbrev HostValue.FailsShift (v : HostValue) : Prop :=
  v ≠ .unclassified ∧ v.validShift = false

/-- The error a call is turned away with is the one of its first failing argument (60_exceptions.md R98). -/
abbrev Call.RejectedWith : Call HostValue → ErrorKind → Prop
  | .not a, .invalidOperand => a.FailsU53
  | .and a b, .invalidOperand => a.FailsU53 ∨ (a.validU53 = true ∧ b.FailsU53)
  | .or a b, .invalidOperand => a.FailsU53 ∨ (a.validU53 = true ∧ b.FailsU53)
  | .xor a b, .invalidOperand => a.FailsU53 ∨ (a.validU53 = true ∧ b.FailsU53)
  | .lshift a _, .invalidOperand => a.FailsU53
  | .urshift a _, .invalidOperand => a.FailsU53
  | .lshift a n, .invalidShiftAmount => a.validU53 = true ∧ n.FailsShift
  | .urshift a n, .invalidShiftAmount => a.validU53 = true ∧ n.FailsShift
  | .not _, .invalidShiftAmount => False
  | .and _ _, .invalidShiftAmount => False
  | .or _ _, .invalidShiftAmount => False
  | .xor _ _, .invalidShiftAmount => False

/-- The first argument that is not valid cannot be classified either, so the call is refused (60_exceptions.md R92, R98;
70_reset_and_hazards.md R118; log entry 6). -/
abbrev Call.Unclassifiable : Call HostValue → Prop
  | .not a => a = .unclassified
  | .and a b => a = .unclassified ∨ (a.validU53 = true ∧ b = .unclassified)
  | .or a b => a = .unclassified ∨ (a.validU53 = true ∧ b = .unclassified)
  | .xor a b => a = .unclassified ∨ (a.validU53 = true ∧ b = .unclassified)
  | .lshift a n => a = .unclassified ∨ (a.validU53 = true ∧ n = .unclassified)
  | .urshift a n => a = .unclassified ∨ (a.validU53 = true ∧ n = .unclassified)

namespace Machine

/-- The exchange is a right one. -/
abbrev Exchange.Right : Exchange → Prop
  | .answered i r => r = plainResponse i
  | .rejectedCall c e => c.RejectedWith e

/-- Every exchange so far was a right one: the invariant of the machine (10_state.md R16, 20_memory.md R25). -/
abbrev State.Inv (s : State) : Prop :=
  ∀ x ∈ s.log, x.Right

end Machine

end Sys2Proof
end

