-- ==== Sys2Proof/Certificates/Slice0/Obligations.lean ====
section
/-!
DEFINITION. The statements for the provers. Where a statement speaks of State, the two fields of State are the model's own
choice (log entry 1); the block has no state, so the frame of every operation is: one exchange is added to `log`, every earlier
exchange stays, `pending` stays. There is no memory, register or flag to keep (20_memory.md R20, 10_state.md R10 to R16).
-/

open Sys2Proof Sys2Proof.Machine

/-- One of 42_and_or_xor.md R60 to R62 as written, for the operation `mk`, its call and its operator. -/
def Sys2Proof.Statements.PairRule (op : OpCode) (mk : Word → Word → Instr)
    (call : HostValue → HostValue → Call HostValue) (f : Nat → Nat → Nat) : Prop :=
  ∀ (a b : Word) (n : Amount),
    decode ⟨op, a, b, n⟩ = .ok (mk a b) ∧
    (Request.toWord ⟨op, a, b, n⟩).toNat = a.toNat * 2 ^ 62 + b.toNat * 2 ^ 9 + n.toNat * 2 ^ 3 + op.toNat ∧
    (∃ w, respond (mk a b) = .ok w ∧
      (chunkSplit w).lower.toNat = f (chunkSplit a).lower.toNat (chunkSplit b).lower.toNat &&& Config.mask31 ∧
      (chunkSplit w).upper.toNat = f (chunkSplit a).upper.toNat (chunkSplit b).upper.toNat &&& Config.mask22) ∧
    (∀ va vb : HostValue, va.FailsU53 ∨ (va.validU53 = true ∧ vb.FailsU53) →
      evalCall (call va vb) = some (.error .invalidOperand))

/-- A text that can stand as one operand of a line: it is not empty and holds no character that separates. -/
def Sys2Proof.Statements.OneOperand (text : List Char) : Prop :=
  text ≠ [] ∧ ' ' ∉ text ∧ ',' ∉ text ∧ '=' ∉ text

/-- A name by which a later line can use a result: one operand, and not a number (log entry 16). -/
def Sys2Proof.Statements.IsName (text : List Char) : Prop :=
  Statements.OneOperand text ∧ readNumber text = none

/-- The text writes the operand: as a number in any of the three bases, or as a name the host has. -/
def Sys2Proof.Statements.Writes (names : AsmNames) (text : List Char) (x : AsmOperand) : Prop :=
  Statements.OneOperand text ∧
    ((∃ v, readNumber text = some v ∧ x = .number v) ∨ (readNumber text = none ∧ names.lookup text = some x))

/-- The operand puts that source on port `a` or `b`: the pattern of a number, or an earlier result. -/
def Sys2Proof.Statements.OnPort (x : AsmOperand) (a : Source) : Prop :=
  (∃ v : Word, x = .number v.toNat ∧ a = .pattern v) ∨ (∃ k, x = .result k ∧ a = .result k)

/-- The line that names its result: `name = …` (30_encoding.md R44). -/
def Sys2Proof.Statements.named (name line : List Char) : List Char :=
  name ++ [' ', '=', ' '] ++ line

/-! ## Encoding -/

/-- 30_encoding.md R41: the value of a request word, its fields, and the operation by `REQ & 0x7` alone. -/
def Obligations.RequestWordLaysOutThePorts : Prop :=
  (∀ r : Request,
    r.toWord.toNat = r.a.toNat * 2 ^ 62 + r.b.toNat * 2 ^ 9 + r.n.toNat * 2 ^ 3 + r.op.toNat ∧
      Request.ofWord r.toWord = r) ∧
  (∀ w : RequestWord,
    (Request.ofWord w).toWord = w ∧
    (Request.ofWord w).a.toNat = w.toNat / 2 ^ 62 ∧
    (Request.ofWord w).b.toNat = w.toNat / 2 ^ 9 % 2 ^ 53 ∧
    (Request.ofWord w).n.toNat = w.toNat / 2 ^ 3 % 2 ^ 6 ∧
    (Request.ofWord w).op.toNat = w.toNat &&& 7) ∧
  (∀ (w : RequestWord) (i : Instr), decodeWord w = .ok i → (encode i).op.toNat = w.toNat &&& 7)

/-- 30_encoding.md, sections 2 and 5: every operation, with every operand at every value, is read back from its request
word, by the decoder of words and by the decoder of the table's bits. -/
def Obligations.RequestWordOfEveryOperationDecodesToIt : Prop :=
  ∀ i : Instr, decodeWord (encodeWord i) = .ok i ∧ decodeTableWord 120 (encodeWord i).toNat = some i

/-- 30_encoding.md, section 2: what a request's operation keeps of it. The zeros on ignored ports are the model's encoder's
choice (log entry 7). -/
def Obligations.DecodingKeepsTheUsedPorts : Prop :=
  ∀ (r : Request) (i : Instr), decode r = .ok i →
    (encode i).op = r.op ∧ r.op.toNat ≤ 5 ∧ (encode i).a = r.a ∧
    (encode i).b = (if 1 ≤ r.op.toNat ∧ r.op.toNat ≤ 3 then r.b else 0) ∧
    (encode i).n = (if 4 ≤ r.op.toNat then r.n else 0)

/-- 30_encoding.md R33, and request words of 95_test_vectors.md. -/
def Obligations.OperationCodesAndSpecWordsDecode : Prop :=
  (∀ (a b : Word) (n : Amount),
    decode ⟨0, a, b, n⟩ = .ok (.not a) ∧ decode ⟨1, a, b, n⟩ = .ok (.and a b) ∧
    decode ⟨2, a, b, n⟩ = .ok (.or a b) ∧ decode ⟨3, a, b, n⟩ = .ok (.xor a b) ∧
    decode ⟨4, a, b, n⟩ = .ok (.lshift a n) ∧ decode ⟨5, a, b, n⟩ = .ok (.urshift a n) ∧
    decode ⟨6, a, b, n⟩ = .error (.reservedOp 6) ∧ decode ⟨7, a, b, n⟩ = .error (.reservedOp 7)) ∧
  decodeTableWord 120 0x48D159E26AF378000000000000000 = some (.not 0x123456789ABCDE) ∧
  decodeTableWord 120 0x48D159E26AF379FDB97530ECA8601 = some (.and 0x123456789ABCDE 0x0FEDCBA9876543) ∧
  decodeTableWord 120 0x48D159E26AF379FDB97530ECA8602 = some (.or 0x123456789ABCDE 0x0FEDCBA9876543) ∧
  decodeTableWord 120 0x48D159E26AF379FDB97530ECA8603 = some (.xor 0x123456789ABCDE 0x0FEDCBA9876543) ∧
  decodeTableWord 120 0x000000000000040000000000001AC = some (.lshift 1 53) ∧
  decodeTableWord 120 0x400000000000000000000000000B5 = some (.urshift 0x10000000000000 22)

/-- 30_encoding.md R36: a reserved code, and only a reserved code, selects no operation and gets no response at all. -/
def Obligations.ReservedCodesGetNoResponse : Prop :=
  ∀ r : Request,
    (eval r = none ↔ r.op = 6 ∨ r.op = 7) ∧
    (decode r = .error (.reservedOp r.op) ↔ r.op = 6 ∨ r.op = 7)

/-- 30_encoding.md section 2: the machine stops on a presented reserved code, in every state (lines: log entry 1). -/
def Obligations.ReservedCodesStopTheStep : Prop :=
  ∀ (s : State) (op : OpCode) (a b : Source) (n : Amount) (rest : List HostLine) (x y : Word),
    op = 6 ∨ op = 7 → s.pending = .ports op a b n :: rest → readSource s a = .ok x → readSource s b = .ok y →
    step s = .refused (.reservedOp op)

/-- 30_encoding.md R35: two requests that differ only in ignored ports have the same response; `n` in 53 to 63 raises nothing
for NOT, AND, OR and XOR. -/
def Obligations.IgnoredPortsHaveNoEffect : Prop :=
  (∀ r r' : Request, r.op = r'.op → r.a = r'.a →
    (1 ≤ r.op.toNat ∧ r.op.toNat ≤ 3 → r.b = r'.b) → (4 ≤ r.op.toNat → r.n = r'.n) → eval r = eval r') ∧
  (∀ r : Request, r.op.toNat ≤ 3 → ∃ v, eval r = some (.ok v))

/-- 30_encoding.md R42: the response word, with any bits `open53` where they are not defined. -/
def Obligations.ResponseWordReadsBack : Prop :=
  (∀ (open53 : Word) (r : Response), decodeResponse (encodeResponse open53 r) = .ok r) ∧
  (∀ open53 v : Word, (encodeResponse open53 (.ok v)).toNat = v.toNat * 2 ^ 2 + 0) ∧
  (∀ open53 : Word, (encodeResponse open53 (.error .invalidOperand)).toNat = open53.toNat * 2 ^ 2 + 1 ∧
    (encodeResponse open53 (.error .invalidShiftAmount)).toNat = open53.toNat * 2 ^ 2 + 2) ∧
  (∀ (w : ResponseWord) (r : Response), decodeResponse w = .ok r → ∃ open53, encodeResponse open53 r = w) ∧
  (∀ w : ResponseWord, w.toNat % 4 = 3 ↔ decodeResponse w = .error .unusedStatus)

/-! ## chunk_splitter and chunk_recombiner -/

/-- 40_chunking.md R45: remainder and quotient, and the same as bit selection. -/
def Obligations.SplitIsRemainderAndQuotient : Prop :=
  ∀ a : Word,
    (chunkSplit a).lower.toNat = a.toNat % 2 ^ 31 ∧ (chunkSplit a).upper.toNat = a.toNat / 2 ^ 31 ∧
    (chunkSplit a).lower = a.extractLsb 30 0 ∧ (chunkSplit a).upper = a.extractLsb 52 31

/-- 40_chunking.md R46: the splitter is wiring. -/
def Obligations.SplitterWiresEveryBit : Prop :=
  ∀ a : Word,
    (∀ i, i ≤ 30 → (chunkSplit a).lower.getLsbD i = a.getLsbD i) ∧
    (∀ j, j ≤ 21 → (chunkSplit a).upper.getLsbD j = a.getLsbD (31 + j))

/-- 40_chunking.md, sections 1 and 2: the recombiner is wiring, and split and recombine are inverse. -/
def Obligations.RecombinerUndoesSplitter : Prop :=
  (∀ a : Word, chunkRecombine (chunkSplit a) = a) ∧
  (∀ c : ChunkPair, chunkSplit (chunkRecombine c) = c ∧
    (∀ i, i ≤ 30 → (chunkRecombine c).getLsbD i = c.lower.getLsbD i) ∧
    (∀ j, j ≤ 21 → (chunkRecombine c).getLsbD (31 + j) = c.upper.getLsbD j)) ∧
  (∀ a a' : Word, chunkSplit a = chunkSplit a' → a = a')

/-! ## The six operations -/

/-- 41_not.md R55: NOT as written, by its chunks. -/
def Obligations.NotComplementsEachChunk : Prop :=
  ∀ (a b : Word) (n : Amount),
    decode ⟨0, a, b, n⟩ = .ok (.not a) ∧
    (Request.toWord ⟨0, a, b, n⟩).toNat = a.toNat * 2 ^ 62 + b.toNat * 2 ^ 9 + n.toNat * 2 ^ 3 + 0 ∧
    (∃ w, respond (.not a) = .ok w ∧
      (chunkSplit w).lower.toNat = 2 ^ 31 - 1 - (chunkSplit a).lower.toNat ∧
      (chunkSplit w).upper.toNat = 2 ^ 22 - 1 - (chunkSplit a).upper.toNat ∧
      (∀ i, i ≤ 30 → (chunkSplit w).lower.getLsbD i = !(chunkSplit a).lower.getLsbD i) ∧
      (∀ j, j ≤ 21 → (chunkSplit w).upper.getLsbD j = !(chunkSplit a).upper.getLsbD j) ∧
      (∀ k, 31 ≤ k →
        ((~~~((chunkSplit a).lower.setWidth k)).toNat &&& Config.mask31) = (chunkSplit w).lower.toNat ∧
        ((~~~((chunkSplit a).upper.setWidth k)).toNat &&& Config.mask22) = (chunkSplit w).upper.toNat)) ∧
    (∀ va : HostValue, va.FailsU53 → evalCall (.not va) = some (.error .invalidOperand))

/-- 41_not.md, the result over exactly 53 bits: NOT completes from every state, and adds this exchange and nothing else. -/
def Obligations.NotAnswersTheComplement : Prop :=
  ∀ (a : Word) (s : State),
    exec (.not a) s =
      .next { s with log := s.log ++ [.answered (.not a) (.ok (BitVec.ofNat 53 (2 ^ 53 - 1 - a.toNat)))] } ∧
    (∀ i, i ≤ 52 → (bitwiseNot53 a).getLsbD i = !a.getLsbD i)

/-- 42_and_or_xor.md R60, R61, R62 as written. -/
def Obligations.AndOrXorWorkOnEachChunkPair : Prop :=
  Statements.PairRule 1 .and .and (fun x y => x &&& y) ∧
  Statements.PairRule 2 .or .or (fun x y => x ||| y) ∧
  Statements.PairRule 3 .xor .xor (fun x y => x ^^^ y) ∧
  respond (.and 0b1010 0b0110) = .ok 0b0010 ∧ respond (.or 0 0) = .ok 0 ∧
  respond (.xor 0x1FFFFFFFFFFFFF 0x1FFFFFFFFFFFFF) = .ok 0

/-- 42_and_or_xor.md, the exact 53-bit results: AND, OR and XOR complete from every state, each adding its exchange and
nothing else. -/
def Obligations.AndOrXorAnswerTheExactBits : Prop :=
  ∀ (a b : Word) (s : State),
    exec (.and a b) s = .next { s with log := s.log ++ [.answered (.and a b) (.ok (a &&& b))] } ∧
    exec (.or a b) s = .next { s with log := s.log ++ [.answered (.or a b) (.ok (a ||| b))] } ∧
    exec (.xor a b) s = .next { s with log := s.log ++ [.answered (.xor a b) (.ok (a ^^^ b))] }

/-- 43_lshift.md R71, R72, R73: the chunks of the result in each regime. -/
def Obligations.LeftShiftChunksInEachRegime : Prop :=
  ∀ (a : Word) (n : Amount),
    let l := (chunkSplit a).lower.toNat
    let u := (chunkSplit a).upper.toNat
    let w := logicalLeftShift53 a n
    let k := n.toNat
    (31 ≤ k → k ≤ 52 →
      (chunkSplit w).upper.toNat = (l &&& (2 ^ (53 - k) - 1)) <<< (k - 31) ∧ (chunkSplit w).lower.toNat = 0) ∧
    (k = 31 → (chunkSplit w).upper.toNat = l &&& Config.mask22) ∧
    (k = 52 → (chunkSplit w).upper.toNat = (l &&& 1) <<< 21 ∧
      w.toNat = if a.toNat % 2 = 1 then 2 ^ 52 else 0) ∧
    (22 ≤ k → k ≤ 30 →
      (chunkSplit w).upper.toNat = (l >>> (31 - k)) &&& Config.mask22 ∧
      (chunkSplit w).lower.toNat = (l &&& (2 ^ (31 - k) - 1)) <<< k ∧
      (∀ i, i ≤ 21 → (chunkSplit w).upper.getLsbD i = (chunkSplit a).lower.getLsbD (31 - k + i)) ∧
      (∀ i, i < k → (chunkSplit w).lower.getLsbD i = false)) ∧
    (k ≤ 21 →
      (chunkSplit w).upper.toNat = ((u <<< k) ||| (l >>> (31 - k))) &&& Config.mask22 ∧
      (chunkSplit w).lower.toNat = (l <<< k) &&& Config.mask31 ∧
      (u <<< k) ||| (l >>> (31 - k)) = (u <<< k) + (l >>> (31 - k))) ∧
    (k = 0 → w = a)

/-- 43_lshift.md, the result of LSHIFT: with a valid amount it completes from every state with the truncated product. -/
def Obligations.LeftShiftAnswersTheTruncatedProduct : Prop :=
  ∀ (a : Word) (n : Amount) (s : State), n.toNat ≤ 52 →
    exec (.lshift a n) s =
      .next { s with log := s.log ++ [.answered (.lshift a n) (.ok (BitVec.ofNat 53 (a.toNat * 2 ^ n.toNat)))] }

/-- 44_urshift.md R81, R82, R83: the chunks of the result in each regime. -/
def Obligations.RightShiftChunksInEachRegime : Prop :=
  ∀ (a : Word) (n : Amount),
    let l := (chunkSplit a).lower.toNat
    let u := (chunkSplit a).upper.toNat
    let w := logicalRightShift53 a n
    let k := n.toNat
    (31 ≤ k → k ≤ 52 →
      (chunkSplit w).lower.toNat = u >>> (k - 31) ∧ (chunkSplit w).upper.toNat = 0) ∧
    (k = 31 → (chunkSplit w).lower.toNat = u) ∧
    (k = 52 → (chunkSplit w).lower.toNat = u >>> 21 ∧ (chunkSplit w).lower.toNat = (a.getLsbD 52).toNat) ∧
    (22 ≤ k → k ≤ 30 →
      (chunkSplit w).lower.toNat = (l >>> k) ||| (u <<< (31 - k)) ∧ (chunkSplit w).upper.toNat = 0 ∧
      (l >>> k) ||| (u <<< (31 - k)) = (l >>> k) + (u <<< (31 - k)) ∧
      (chunkSplit w).lower.toNat < 2 ^ (53 - k)) ∧
    (k ≤ 21 →
      (chunkSplit w).lower.toNat = (l >>> k) ||| ((u &&& (2 ^ k - 1)) <<< (31 - k)) ∧
      (chunkSplit w).upper.toNat = u >>> k ∧
      (l >>> k) ||| ((u &&& (2 ^ k - 1)) <<< (31 - k)) = (l >>> k) + ((u &&& (2 ^ k - 1)) <<< (31 - k))) ∧
    (k = 0 → w = a)

/-- 44_urshift.md, the result of URSHIFT: with a valid amount it completes from every state with the quotient. -/
def Obligations.RightShiftAnswersTheQuotient : Prop :=
  ∀ (a : Word) (n : Amount) (s : State), n.toNat ≤ 52 →
    exec (.urshift a n) s =
      .next { s with log := s.log ++ [.answered (.urshift a n) (.ok (BitVec.ofNat 53 (a.toNat / 2 ^ n.toNat)))] }

/-- 43_lshift.md and 44_urshift.md, bit by bit: where each bit of a shift's result comes from. -/
def Obligations.ShiftsMoveEveryBit : Prop :=
  ∀ (a : Word) (n : Amount), n.toNat ≤ 52 → ∀ i, i ≤ 52 →
    (logicalLeftShift53 a n).getLsbD i = (decide (n.toNat ≤ i) && a.getLsbD (i - n.toNat)) ∧
    (logicalRightShift53 a n).getLsbD i = (decide (i + n.toNat ≤ 52) && a.getLsbD (i + n.toNat))

/-- 43_lshift.md R79: an invalid amount at the ports and at the call level. -/
def Obligations.LeftShiftRejectsInvalidAmounts : Prop :=
  (∀ r : Request, r.op = 4 → 53 ≤ r.n.toNat → eval r = some (.error .invalidShiftAmount)) ∧
  (∀ va vn : HostValue, va.validU53 = true → vn.FailsShift →
    evalCall (.lshift va vn) = some (.error .invalidShiftAmount)) ∧
  evalCall (.lshift (.integer 1) (.integer 53)) = some (.error .invalidShiftAmount)

/-- 60_exceptions.md, section 5, with 43_lshift.md and 44_urshift.md: with an invalid amount a shift answers with the error,
adds that exchange and changes nothing else, and the machine goes on. -/
def Obligations.InvalidAmountsAreAnsweredWithTheError : Prop :=
  ∀ (a : Word) (n : Amount) (s : State), 53 ≤ n.toNat →
    exec (.lshift a n) s =
      .next { s with log := s.log ++ [.answered (.lshift a n) (.error .invalidShiftAmount)] } ∧
    exec (.urshift a n) s =
      .next { s with log := s.log ++ [.answered (.urshift a n) (.error .invalidShiftAmount)] } ∧
    (∀ va vn : HostValue, va.validU53 = true → vn.FailsShift →
      evalCall (.urshift va vn) = some (.error .invalidShiftAmount))

/-- 43_lshift.md, on the doubted branch: its formulas and those of the branch below 22 give the same two chunks. -/
def Obligations.MiddleRegimeNeedsNoUpperChunk : Prop :=
  ∀ n l u : Nat, 22 ≤ n → n ≤ 30 → l < 2 ^ 31 → u < 2 ^ 22 →
    leftShiftChunks n l u =
      ((l <<< n) &&& Config.mask31, ((u <<< n) ||| (l >>> (31 - n))) &&& Config.mask22) ∧
    (u <<< n) &&& Config.mask22 = 0

/-- 41_not.md, 42_and_or_xor.md, 43_lshift.md and 44_urshift.md, the ranges: every operation meets the recombiner's
precondition, the right shift with no final mask. -/
def Obligations.ChunkResultsAreInRange : Prop :=
  ∀ l l' u u' : Nat, l < 2 ^ 31 → l' < 2 ^ 31 → u < 2 ^ 22 → u' < 2 ^ 22 →
    ((notChunks l u).1 < 2 ^ 31 ∧ (notChunks l u).2 < 2 ^ 22) ∧
    (l &&& l' < 2 ^ 31 ∧ l ||| l' < 2 ^ 31 ∧ l ^^^ l' < 2 ^ 31) ∧
    (u &&& u' < 2 ^ 22 ∧ u ||| u' < 2 ^ 22 ∧ u ^^^ u' < 2 ^ 22) ∧
    (∀ n, n ≤ 52 →
      ((leftShiftChunks n l u).1 < 2 ^ 31 ∧ (leftShiftChunks n l u).2 < 2 ^ 22) ∧
      ((rightShiftChunks n l u).1 < 2 ^ 31 ∧ (rightShiftChunks n l u).2 < 2 ^ 22))

/-- 40_chunking.md, section 3: a datapath of 32 bits that wraps and reads results as signed leaves the exact chunk results of
every operation. That the native operators wrap so is PRESUMED (log entry 12). -/
def Obligations.NativeDatapathGivesTheExactChunks : Prop :=
  ∀ l l' u u' : Nat, l < 2 ^ 31 → l' < 2 ^ 31 → u < 2 ^ 22 → u' < 2 ^ 22 →
    notNative l u = exactResults (notChunks l u) ∧
    (pairNative (fun x y => x &&& y) Config.mask31 l l' = ((l &&& l' : Nat) : Int) ∧
      pairNative (fun x y => x ||| y) Config.mask31 l l' = ((l ||| l' : Nat) : Int) ∧
      pairNative (fun x y => x ^^^ y) Config.mask31 l l' = ((l ^^^ l' : Nat) : Int)) ∧
    (pairNative (fun x y => x &&& y) Config.mask22 u u' = ((u &&& u' : Nat) : Int) ∧
      pairNative (fun x y => x ||| y) Config.mask22 u u' = ((u ||| u' : Nat) : Int) ∧
      pairNative (fun x y => x ^^^ y) Config.mask22 u u' = ((u ^^^ u' : Nat) : Int)) ∧
    (∀ n, n ≤ 52 →
      leftShiftNative n l u = exactResults (leftShiftChunks n l u) ∧
      rightShiftNative n l u = exactResults (rightShiftChunks n l u))

/-! ## The laws the source requires, and those the spec derives -/

/-- 41_not.md, the laws of NOT. -/
def Obligations.NotObeysItsLaws : Prop :=
  bitwiseNot53 0 = BitVec.ofNat 53 (2 ^ 53 - 1) ∧
  ∀ a : Word,
    bitwiseNot53 (bitwiseNot53 a) = a ∧
    bitwiseAnd53 a (bitwiseNot53 a) = 0 ∧
    bitwiseOr53 a (bitwiseNot53 a) = BitVec.ofNat 53 (2 ^ 53 - 1) ∧
    bitwiseXor53 a (bitwiseNot53 a) = BitVec.ofNat 53 (2 ^ 53 - 1) ∧
    bitwiseNot53 a = bitwiseXor53 a (BitVec.ofNat 53 (2 ^ 53 - 1))

/-- 42_and_or_xor.md, the laws of AND, OR and XOR. -/
def Obligations.AndOrXorObeyTheirLaws : Prop :=
  ∀ a b c : Word,
    (bitwiseAnd53 a b = bitwiseAnd53 b a ∧ bitwiseOr53 a b = bitwiseOr53 b a ∧ bitwiseXor53 a b = bitwiseXor53 b a) ∧
    (bitwiseAnd53 a a = a ∧ bitwiseOr53 a a = a ∧ bitwiseXor53 a a = 0) ∧
    (bitwiseAnd53 (bitwiseAnd53 a b) c = bitwiseAnd53 a (bitwiseAnd53 b c) ∧
      bitwiseOr53 (bitwiseOr53 a b) c = bitwiseOr53 a (bitwiseOr53 b c) ∧
      bitwiseXor53 (bitwiseXor53 a b) c = bitwiseXor53 a (bitwiseXor53 b c)) ∧
    (bitwiseAnd53 a 0 = 0 ∧ bitwiseAnd53 a (BitVec.ofNat 53 Config.max53) = a ∧ bitwiseOr53 a 0 = a ∧
      bitwiseOr53 a (BitVec.ofNat 53 Config.max53) = BitVec.ofNat 53 Config.max53 ∧ bitwiseXor53 a 0 = a) ∧
    bitwiseXor53 (bitwiseXor53 a b) b = a ∧
    bitwiseNot53 (bitwiseAnd53 a b) = bitwiseOr53 (bitwiseNot53 a) (bitwiseNot53 b)

/-- 43_lshift.md and 44_urshift.md: shifts by amounts whose sum is valid compose, whether or not bits were lost. -/
def Obligations.ShiftsCompose : Prop :=
  ∀ (a : Word) (n1 n2 : Amount), n1.toNat + n2.toNat ≤ 52 →
    logicalLeftShift53 (logicalLeftShift53 a n1) n2 = logicalLeftShift53 a (n1 + n2) ∧
    logicalRightShift53 (logicalRightShift53 a n1) n2 = logicalRightShift53 a (n1 + n2)

/-- 43_lshift.md and 44_urshift.md: shifting there and back. -/
def Obligations.ShiftsThereAndBack : Prop :=
  ∀ (a : Word) (n : Amount), n.toNat ≤ 52 →
    (logicalRightShift53 (logicalLeftShift53 a n) n).toNat = a.toNat % 2 ^ (53 - n.toNat) ∧
    (logicalLeftShift53 (logicalRightShift53 a n) n).toNat = a.toNat - a.toNat % 2 ^ n.toNat ∧
    (logicalRightShift53 a n = 0 ↔ a.toNat < 2 ^ n.toNat) ∧
    logicalLeftShift53 0 n = 0 ∧
    logicalRightShift53 (logicalLeftShift53 a 0) 0 = a

/-! ## Errors and the call level -/

/-- 60_exceptions.md R94: with a defined code, and a valid amount where one is used, there is a result; the only error at the
ports is the invalid amount of a shift. -/
def Obligations.DefinedRequestsHaveResults : Prop :=
  ∀ r : Request, r.op.toNat ≤ 5 →
    ((4 ≤ r.op.toNat ∧ 53 ≤ r.n.toNat) ∧ eval r = some (.error .invalidShiftAmount)) ∨
    (¬(4 ≤ r.op.toNat ∧ 53 ≤ r.n.toNat) ∧ ∃ v, eval r = some (.ok v))

/-- 60_exceptions.md R98: a call is turned away with an error exactly when that is the error of its first failing argument. -/
def Obligations.CallsReportTheFirstFailure : Prop :=
  (∀ (c : Call HostValue) (e : ErrorKind), validateCall c = .rejected e ↔ c.RejectedWith e) ∧
  validateCall (.lshift (.integer (-1)) (.integer 53)) = .rejected .invalidOperand

/-- 30_encoding.md R39: a call's answer is the response of its request, whatever stands on the ports it ignores, and the
error of its validation otherwise; an amount in 53 to 63 gives the same error either way. -/
def Obligations.CallsAreAnsweredAsTheirRequests : Prop :=
  (∀ (x y b : Word) (n k : Amount),
    evalCall (.not (.integer x.toNat)) = eval ⟨0, x, b, k⟩ ∧
    evalCall (.and (.integer x.toNat) (.integer y.toNat)) = eval ⟨1, x, y, k⟩ ∧
    evalCall (.or (.integer x.toNat) (.integer y.toNat)) = eval ⟨2, x, y, k⟩ ∧
    evalCall (.xor (.integer x.toNat) (.integer y.toNat)) = eval ⟨3, x, y, k⟩ ∧
    evalCall (.lshift (.integer x.toNat) (.integer n.toNat)) = eval ⟨4, x, b, n⟩ ∧
    evalCall (.urshift (.integer x.toNat) (.integer n.toNat)) = eval ⟨5, x, b, n⟩) ∧
  (∀ (c : Call HostValue) (e : ErrorKind), c.RejectedWith e → evalCall c = some (.error e))

/-! ## The machine -/

/-- Log entries 1 and 3, on 20_memory.md section 4: a step on a line that drives the ports is exec of the operation those
ports select, with that line taken. -/
def Obligations.StepRunsThePresentedOperation : Prop :=
  ∀ (s : State) (op : OpCode) (a b : Source) (n : Amount) (rest : List HostLine) (x y : Word) (i : Instr),
    s.pending = .ports op a b n :: rest → readSource s a = .ok x → readSource s b = .ok y →
    decode ⟨op, x, y, n⟩ = .ok i →
    step s = exec i { s with pending := rest }

/-- Log entry 1, on 30_encoding.md section 4: a step on a call is exec of the operation of its request, or records the error
its validation raised in front of the ports, or is refused; refused are exactly the calls whose first argument that is not
valid cannot be classified (70_reset_and_hazards.md section 4; log entry 6). -/
def Obligations.StepRunsThePresentedCall : Prop :=
  ∀ (s : State) (c : Call CallArg) (c' : Call HostValue) (rest : List HostLine),
    s.pending = .call c :: rest → readCall s c = .ok c' →
    (∀ (r : Request) (i : Instr), validateCall c' = .request r → decode r = .ok i →
      step s = exec i { s with pending := rest }) ∧
    (∀ e : ErrorKind, validateCall c' = .rejected e →
      step s = .next { pending := rest, log := s.log ++ [.rejectedCall c' e] }) ∧
    (validateCall c' = .unclassified → step s = .refused .unclassifiedArgument) ∧
    (validateCall c' = .unclassified ↔ c'.Unclassifiable)

/-- The headline: every step keeps a log in which each operation was answered with its plain 53-bit meaning and each call
turned away got the error of its first failing argument (Sys2Proof/Safety.lean; 10_state.md section 7, 20_memory.md section
5). -/
def Obligations.EveryStepKeepsTheLogRight : Prop :=
  ∀ s t : State, s.Inv → step s = .next t → t.Inv

/-- The invariant holds after reset (the empty log is the model's choice, log entry 2). -/
def Obligations.ResetLogIsRight : Prop :=
  State.reset.Inv

/-- 60_exceptions.md section 5: a step takes one line and adds one exchange, and no earlier response ever changes; with no
line left nothing happens (log entry 3). -/
def Obligations.StepOnlyAddsOneExchange : Prop :=
  ∀ s t : State, step s = .next t →
    (s.pending = [] ∧ t = s) ∨
    (s.pending ≠ [] ∧ ∃ x, t = { pending := s.pending.tail, log := s.log ++ [x] })

/-- 10_state.md section 7: the same request gives the same response at any time, whatever was before and whatever comes
after. Where the response is recorded is the model's choice (log entry 1). -/
def Obligations.ResponseDependsOnTheRequestAlone : Prop :=
  ∀ (r : Request) (resp : Response), eval r = some resp →
    ∃ i : Instr, ∀ (s : State) (rest : List HostLine), s.pending = r.line :: rest →
      step s = .next { pending := rest, log := s.log ++ [.answered i resp] }

/-- 20_memory.md section 5: requests do not interact. A host that presents any requests one after another gets, for each, the
response it would get alone. -/
def Obligations.RequestsDoNotInteract : Prop :=
  ∀ (rs : List Request) (s : State), (∀ r ∈ rs, r.wellFormed = true) → s.pending = rs.map Request.line →
    ∃ t : State, Host.Core.run Sys2Proof.core rs.length s = .next t ∧ t.pending = [] ∧
      t.responses.map some = s.responses.map some ++ rs.map eval

/-- 60_exceptions.md section 6: an error is fatal to its own request only; the same request gets it again, and the next
request is answered as ever. -/
def Obligations.TheBlockAnswersOnAfterAnError : Prop :=
  ∀ (s : State) (r r' : Request) (e : ErrorKind) (resp : Response), eval r = some (.error e) → eval r' = some resp →
    ∃ t u v : State,
      step (((s.present r').present r).present r) = .next t ∧ step t = .next u ∧ step u = .next v ∧
      v.responses = s.responses ++ [.error e, .error e, resp]

/-- 20_memory.md section 5 and 60_exceptions.md section 12: several copies are the product of independent evaluations. The
step of one copy is its own step, put back in its place; it leaves every other copy as it was; steps of different copies
commute. A copy that stops, or is not there, takes no step (log entry 18). -/
def Obligations.CopiesDoNotInteract : Prop :=
  (∀ (j : Nat) (copies : List State) (s : State), copies[j]? = some s →
    (∀ t, step s = .next t → stepCopy j copies = some (copies.set j t)) ∧
    ((∀ t, step s ≠ .next t) → stepCopy j copies = none)) ∧
  (∀ (j : Nat) (copies : List State), copies[j]? = none → stepCopy j copies = none) ∧
  (∀ (j k : Nat) (copies : List State), j ≠ k →
    stepCopies [j, k] copies = stepCopies [k, j] copies ∧
    (∀ after, stepCopy j copies = some after → after[k]? = copies[k]?))

/-- 70_reset_and_hazards.md section 4: a step stops only for a line that names a result that is not there (log entry 8), a
reserved code, or a value that cannot be classified (log entry 6). -/
def Obligations.StepStopsOnlyForTheHost : Prop :=
  ∀ s : State,
    (∀ f, step s = .fault f →
      ∃ l rest k, s.pending = l :: rest ∧ f = .noResult k ∧ k ∈ l.reads ∧ s.resultOf k = none) ∧
    (∀ q, step s = .refused q →
      ∃ l rest, s.pending = l :: rest ∧
        ((∃ op a b n, l = .ports op a b n ∧ 6 ≤ op.toNat ∧ q = .reservedOp op) ∨
          (∃ c, l = .call c ∧ CallArg.value .unclassified ∈ c.args ∧ q = .unclassifiedArgument)))

/-- 70_reset_and_hazards.md section 4: every well-formed line whose results are there is answered at the next step. -/
def Obligations.WellFormedLinesAreAnswered : Prop :=
  ∀ (s : State) (l : HostLine) (rest : List HostLine), s.pending = l :: rest →
    l.wellFormed s.log.length = true → (∀ k ∈ l.reads, s.resultOf k ≠ none) →
    ∃ x, step s = .next { pending := rest, log := s.log ++ [x] }

/-! ## Assembly -/

/-- 30_encoding.md section 6, with the spelling of 95_test_vectors.md (upper-case letters, padded with zeros): numbers are
read in decimal, `0x` hexadecimal and `0b` binary, after any zeros; the letters of a hexadecimal number may be in either case,
also mixed (log entry 16). -/
def Obligations.AssemblerReadsTheThreeBases : Prop :=
  ∀ v zeros : Nat,
    readNumber (List.replicate zeros '0' ++ Nat.toDigits 10 v) = some v ∧
    (∀ digits : List Char, digits.map Char.toLower = Nat.toDigits 16 v →
      readNumber ('0' :: 'x' :: (List.replicate zeros '0' ++ digits)) = some v) ∧
    readNumber ('0' :: 'b' :: (List.replicate zeros '0' ++ Nat.toDigits 2 v)) = some v

/-- 30_encoding.md section 6: an operation written as a line assembles, whatever names the host has, to the line that drives
its ports, with ignored ports 0; so does the line that names its result, and it gives the name. A name that is a number is
given too, and is still read as the number (log entry 16 for the spaces and for what a name may be). -/
def Obligations.WrittenLinesAssembleToTheirRequest : Prop :=
  ∀ (names : AsmNames) (i : Instr),
    assembleLine names (writeLine i) = .ok (none, (encode i).line) ∧
    (∀ name, Statements.OneOperand name →
      assembleLine names (Statements.named name (writeLine i)) = .ok (some name, (encode i).line) ∧
      (∀ v k, readNumber name = some v → readOperand (namesAfter k names (some name)) name = .ok (.number v)))

/-- 30_encoding.md section 6: in the line of every mnemonic an operand may be a number in any of the three bases or a name
the host has, in any mixture. An amount that names a result makes the line the call, which checks it in front of the ports (the
model's choice, log entry 16). -/
def Obligations.OperandsAreNumbersOrNames : Prop :=
  ∀ (names : AsmNames) (ta tb : List Char) (xa xb : AsmOperand) (a b : Source),
    Statements.Writes names ta xa → Statements.Writes names tb xb → Statements.OnPort xa a →
    assembleLine names (['N', 'O', 'T', ' '] ++ ta) = .ok (none, .ports 0 a (.pattern 0) 0) ∧
    (Statements.OnPort xb b →
      assembleLine names (['A', 'N', 'D', ' '] ++ ta ++ [',', ' '] ++ tb) = .ok (none, .ports 1 a b 0) ∧
      assembleLine names (['O', 'R', ' '] ++ ta ++ [',', ' '] ++ tb) = .ok (none, .ports 2 a b 0) ∧
      assembleLine names (['X', 'O', 'R', ' '] ++ ta ++ [',', ' '] ++ tb) = .ok (none, .ports 3 a b 0)) ∧
    (∀ n : Amount, xb = .number n.toNat →
      assembleLine names (['L', 'S', 'H', 'I', 'F', 'T', ' '] ++ ta ++ [',', ' '] ++ tb) =
        .ok (none, .ports 4 a (.pattern 0) n) ∧
      assembleLine names (['U', 'R', 'S', 'H', 'I', 'F', 'T', ' '] ++ ta ++ [',', ' '] ++ tb) =
        .ok (none, .ports 5 a (.pattern 0) n)) ∧
    (∀ k, xb = .result k →
      assembleLine names (['L', 'S', 'H', 'I', 'F', 'T', ' '] ++ ta ++ [',', ' '] ++ tb) =
        .ok (none, .call (.lshift (operandArg xa) (.result k))) ∧
      assembleLine names (['U', 'R', 'S', 'H', 'I', 'F', 'T', ' '] ++ ta ++ [',', ' '] ++ tb) =
        .ok (none, .call (.urshift (operandArg xa) (.result k))))

/-- 30_encoding.md section 6: in a sequence whose first line will be exchange `k`, a named line adds its name, for the result
of that exchange, to the names of the lines after it; a line with no name adds none. Presented one after another, the later
lines work on the result itself. -/
def Obligations.NamedResultsFeedLaterLines : Prop :=
  ∀ (names : AsmNames) (name : List Char) (i : Instr), Statements.IsName name →
    (∀ (k : Nat) (later : List (List Char)),
      assembleFrom k names (Statements.named name (writeLine i) :: later) =
        (assembleFrom (k + 1) ((name, .result k) :: names) later).map ((encode i).line :: ·) ∧
      assembleFrom k names (writeLine i :: later) =
        (assembleFrom (k + 1) names later).map ((encode i).line :: ·) ∧
      Statements.Writes ((name, .result k) :: names) name (.result k)) ∧
    (∀ (s : State) (v : Word), respond i = .ok v →
      ∃ (lines : List HostLine) (t : State),
        assembleFrom s.log.length names
          [Statements.named name (writeLine i), ['N', 'O', 'T', ' '] ++ name,
            ['A', 'N', 'D', ' '] ++ name ++ [',', ' '] ++ name,
            ['L', 'S', 'H', 'I', 'F', 'T', ' '] ++ name ++ [',', ' '] ++ name] = .ok lines ∧
        Host.Core.run Sys2Proof.core 4 { s with pending := lines } = .next t ∧ t.pending = [] ∧
        t.responses = s.responses ++ [.ok v, .ok (BitVec.ofNat 53 (2 ^ 53 - 1 - v.toNat)), .ok (v &&& v),
          if v.toNat ≤ 52 then .ok (BitVec.ofNat 53 (v.toNat * 2 ^ v.toNat)) else .error .invalidShiftAmount])
end

