-- ==== Sys2Proof/Laws/Assembly.lean ====
section
/-!
SUPPORT. What each piece of the assembler does, said once: digits, zeros in front, the letters of either case, cutting a text
at a character, and trimming.
-/

namespace Sys2Proof.Machine

/-- A digit written by the library has its value. -/
theorem digitValue_digitChar : ∀ d, d < 16 → digitValue (Nat.digitChar d) = d := by decide

/-- The code of a character's lower-case form. -/
theorem toNat_toLower (c : Char) :
    c.toLower.toNat = if 65 ≤ c.toNat ∧ c.toNat ≤ 90 then c.toNat + 32 else c.toNat := by
  have range : (65 ≤ c.toNat ∧ c.toNat ≤ 90) ↔ ('A'.val.toNat ≤ c.val.toNat ∧ c.val.toNat ≤ 'Z'.val.toNat) := Iff.rfl
  unfold Char.toLower
  simp only [ge_iff_le, UInt32.le_iff_toNat_le]
  split
  · rename_i h
    have h' := range.2 h
    rw [if_pos h']
    show (c.val + ('a'.val - 'A'.val)).toNat = _
    rw [UInt32.toNat_add, show ('a'.val - 'A'.val).toNat = 32 by decide]
    simp only [Char.toNat] at h' ⊢
    omega
  · rename_i h
    rw [if_neg (fun q => h (range.1 q))]

/-- A letter has the value of its lower-case form: upper case, lower case and mixed case read alike (log entry 16). -/
theorem digitValue_of_toLower {c : Char} {d : Nat} (hd : d < 16) (h : c.toLower = Nat.digitChar d) : digitValue c = d := by
  have hv : digitValue c.toLower = d := by rw [h, digitValue_digitChar d hd]
  simp only [digitValue, toNat_toLower] at hv ⊢
  by_cases hu : 65 ≤ c.toNat ∧ c.toNat ≤ 90
  · simp only [if_pos hu] at hv
    repeat' split at hv
    all_goals repeat' split
    all_goals omega
  · simp only [if_neg hu] at hv
    exact hv

/-- One digit more at the end. -/
theorem readDigits_append (base acc : Nat) (cs : List Char) (c : Char) :
    readDigits base acc (cs ++ [c]) =
      (readDigits base acc cs).bind fun v => if digitValue c < base then some (v * base + digitValue c) else none := by
  induction cs generalizing acc with
  | nil => simp [readDigits]
  | cons x xs ih => simp only [List.cons_append, readDigits]; split <;> simp [ih]

/-- Zeros in front change nothing. -/
theorem readDigits_zeros (base zeros : Nat) (cs : List Char) (h : 0 < base) :
    readDigits base 0 (List.replicate zeros '0' ++ cs) = readDigits base 0 cs := by
  induction zeros with
  | zero => rfl
  | succ z ih =>
    rw [List.replicate_succ, List.cons_append, readDigits, show digitValue '0' = 0 by decide, if_pos h]
    simpa using ih

/-- A text without the character is one piece. -/
theorem piecesAt_of_not_mem {sep : Char} {t : List Char} (h : sep ∉ t) : piecesAt sep t = [t] := by
  induction t with
  | nil => rfl
  | cons c cs ih =>
    simp only [List.mem_cons, not_or] at h
    rw [piecesAt, if_neg (Ne.symm h.1), ih h.2]

/-- A text with the character once is two pieces. -/
theorem piecesAt_append {sep : Char} {t u : List Char} (h : sep ∉ t) (h' : sep ∉ u) :
    piecesAt sep (t ++ sep :: u) = [t, u] := by
  induction t with
  | nil => simp [piecesAt, piecesAt_of_not_mem h']
  | cons c cs ih =>
    simp only [List.mem_cons, not_or] at h
    rw [List.cons_append, piecesAt, if_neg (Ne.symm h.1), ih h.2]

/-- A space in front is trimmed. -/
@[simp] theorem trimSpaces_space_cons (t : List Char) : trimSpaces (' ' :: t) = trimSpaces t := rfl

/-- A text without spaces is trimmed to itself. -/
theorem trimSpaces_of_not_mem {t : List Char} (h : ' ' ∉ t) : trimSpaces t = t := by
  have keep : ∀ u : List Char, ' ' ∉ u → u.dropWhile (· == ' ') = u := by
    intro u hu
    cases u with
    | nil => rfl
    | cons c cs =>
      simp only [List.mem_cons, not_or] at hu
      rw [List.dropWhile_cons_of_neg (by simpa using Ne.symm hu.1)]
  rw [trimSpaces, keep t h, keep _ (by simpa using h), List.reverse_reverse]

/-- The spaces in front of a line do not reach its operands. -/
theorem assembleBody_space_cons (names : AsmNames) (t : List Char) :
    assembleBody names (' ' :: t) = assembleBody names t := by
  simp only [assembleBody, trimSpaces_space_cons]

end Sys2Proof.Machine
end

