-- ==== Sys2Proof/Laws/State.lean ====
section
/-!
SUPPORT. One lemma per field per update of State, so that no proof unfolds a record update.
-/

namespace Sys2Proof.Machine

@[simp] theorem deliver_pending (i : Instr) (r : Response) (s : State) : (s.deliver i r).pending = s.pending := rfl

@[simp] theorem deliver_log (i : Instr) (r : Response) (s : State) : (s.deliver i r).log = s.log ++ [.answered i r] := rfl

@[simp] theorem raise_pending (i : Instr) (e : ErrorKind) (s : State) : (s.raise i e).pending = s.pending := rfl

@[simp] theorem raise_log (i : Instr) (e : ErrorKind) (s : State) :
    (s.raise i e).log = s.log ++ [.answered i (.error e)] := rfl

@[simp] theorem rejectCall_pending (c : Call HostValue) (e : ErrorKind) (s : State) :
    (s.rejectCall c e).pending = s.pending := rfl

@[simp] theorem rejectCall_log (c : Call HostValue) (e : ErrorKind) (s : State) :
    (s.rejectCall c e).log = s.log ++ [.rejectedCall c e] := rfl

@[simp] theorem advance_pending (s : State) : s.advance.pending = s.pending.tail := rfl

@[simp] theorem advance_log (s : State) : s.advance.log = s.log := rfl

@[simp] theorem present_pending (r : Request) (s : State) :
    (s.present r).pending = r.line :: s.pending := rfl

@[simp] theorem present_log (r : Request) (s : State) : (s.present r).log = s.log := rfl

@[simp] theorem advance_present (r : Request) (s : State) : (s.present r).advance = s := rfl

@[simp] theorem answered_response (i : Instr) (r : Response) : (Exchange.answered i r).response = r := rfl

@[simp] theorem rejectedCall_response (c : Call HostValue) (e : ErrorKind) :
    (Exchange.rejectedCall c e).response = .error e := rfl

@[simp] theorem responses_deliver (i : Instr) (r : Response) (s : State) :
    (s.deliver i r).responses = s.responses ++ [r] := by
  simp [State.responses]

@[simp] theorem responses_advance (s : State) : s.advance.responses = s.responses := rfl

end Sys2Proof.Machine
end

