-- ==== Sys2Proof/Laws/Ops.lean ====
section
/-!
SUPPORT. What each shared operation can do, said once: the recombiner, the chunk pattern, validation, exec, fetch and step.
-/

namespace Sys2Proof.Machine

/-- The recombiner's value is `lowerResult + upperResult * 2^31` (40_chunking.md R48). -/
theorem chunkRecombine_toNat (c : ChunkPair) :
    (chunkRecombine c).toNat = c.lower.toNat + c.upper.toNat * 2 ^ 31 := by
  have h := c.lower.isLt
  rw [chunkRecombine, BitVec.toNat_append, ← Nat.shiftLeft_add_eq_or_of_lt h, Nat.shiftLeft_eq]
  omega

/-- Chunk results in range are recombined as they are (40_chunking.md R50). -/
theorem recombine_ofNats_toNat {r : Nat × Nat} (hl : r.1 < 2 ^ 31) (hu : r.2 < 2 ^ 22) :
    (chunkRecombine (.ofNats r)).toNat = r.1 + r.2 * 2 ^ 31 := by
  rw [chunkRecombine_toNat, ChunkPair.ofNats]
  simp only [BitVec.toNat_ofNat, Nat.mod_eq_of_lt hl, Nat.mod_eq_of_lt hu]

/-- Executing an operation delivers its response and does nothing else (10_state.md R16, 60_exceptions.md R100). -/
theorem exec_eq_deliver (i : Instr) (s : State) : exec i s = .next (s.deliver i (respond i)) := by
  cases i with
  | not a => rfl
  | and a b => rfl
  | or a b => rfl
  | xor a b => rfl
  | lshift a n => by_cases h : n.valid <;> simp [exec, execLshift, respond, answerLshift, State.raise, h]
  | urshift a n => by_cases h : n.valid <;> simp [exec, execUrshift, respond, answerUrshift, State.raise, h]

/-- What a next state of step comes from: no line, an operation, or a call turned away. -/
theorem step_next_cases {s t : State} (h : step s = .next t) :
    (fetch s = .idle ∧ t = s) ∨
    (∃ r i, fetch s = .request r ∧ decode r = .ok i ∧ t = s.advance.deliver i (respond i)) ∨
    (∃ c e, fetch s = .rejected c e ∧ t = s.advance.rejectCall c e) := by
  unfold step at h
  split at h
  · exact .inl ⟨‹_›, by injection h with h; exact h.symm⟩
  · rename_i r hr
    split at h
    · rename_i i hi
      rw [exec_eq_deliver] at h
      injection h with h
      exact .inr (.inl ⟨r, i, hr, hi, h.symm⟩)
    · cases h
  · rename_i c e hc
    injection h with h
    exact .inr (.inr ⟨c, e, hc, h.symm⟩)
  · cases h
  · cases h

/-- No line is left exactly when fetch finds nothing. -/
theorem fetch_idle_iff (s : State) : fetch s = .idle ↔ s.pending = [] := by
  constructor
  · intro h
    unfold fetch at h
    split at h
    · assumption
    · rename_i l _ _
      cases l with
      | ports op a b n => simp only [fetchLine] at h; split at h <;> cases h
      | call c =>
        simp only [fetchLine] at h
        split at h
        · simp only [fetchCall] at h; split at h <;> cases h
        · cases h
  · intro h
    simp [fetch, h]

/-- What fetch finds where the host presents a request. -/
theorem fetch_present (r : Request) (s : State) : fetch (s.present r) = .request r := rfl

/-- A call fetch turned away failed its validation with that error. -/
theorem fetch_rejected {s : State} {c : Call HostValue} {e : ErrorKind} (h : fetch s = .rejected c e) :
    validateCall c = .rejected e := by
  unfold fetch at h
  split at h
  · cases h
  · rename_i l _ _
    cases l with
    | ports op a b n => simp only [fetchLine] at h; split at h <;> cases h
    | call c' =>
      simp only [fetchLine] at h
      split at h
      · simp only [fetchCall] at h
        split at h
        · cases h
        · rename_i he; injection h with h1 h2; subst h1; subst h2; exact he
        · cases h
      · cases h

/-- The operand check of a valid operand. -/
theorem checkU53_valid {v : HostValue} (h : v.validU53 = true) : v.checkU53 = .valid (v.toPort 53) := by
  have hu : v ≠ .unclassified := by rintro rfl; exact absurd h (by decide)
  rw [HostValue.checkU53, if_neg hu, if_pos h]

/-- The operand check of a classified value that is no operand. -/
theorem checkU53_invalid {v : HostValue} (hu : v ≠ .unclassified) (h : v.validU53 = false) : v.checkU53 = .invalid := by
  rw [HostValue.checkU53, if_neg hu, if_neg (by simp [h])]

/-- The shift check of a valid amount. -/
theorem checkShift_valid {v : HostValue} (h : v.validShift = true) : v.checkShift = .valid (v.toPort 6) := by
  have hu : v ≠ .unclassified := by rintro rfl; exact absurd h (by decide)
  rw [HostValue.checkShift, if_neg hu, if_pos h]

/-- The shift check of a classified value that is no amount. -/
theorem checkShift_invalid {v : HostValue} (hu : v ≠ .unclassified) (h : v.validShift = false) :
    v.checkShift = .invalid := by
  rw [HostValue.checkShift, if_neg hu, if_neg (by simp [h])]

/-- An integer is a valid operand exactly in the range (60_exceptions.md R90). -/
theorem validU53_integer (z : Int) : (HostValue.integer z).validU53 = true ↔ 0 ≤ z ∧ z ≤ Config.max53 :=
  decide_eq_true_iff

/-- An integer is a valid amount exactly in 0 to 52 (60_exceptions.md R91). -/
theorem validShift_integer (z : Int) : (HostValue.integer z).validShift = true ↔ 0 ≤ z ∧ z < Config.width :=
  decide_eq_true_iff

/-- On the port only the upper bound can fail (60_exceptions.md R91). -/
theorem amount_valid_iff (n : Amount) : n.valid = true ↔ n.toNat < 53 :=
  decide_eq_true_iff

end Sys2Proof.Machine
end

