-- ==== Sys2Proof/Laws/PerInstr.lean ====
section
/-!
SUPPORT. The per-instruction family EncodeDecode: at the ports, an operation is encoded as a well-formed request that decodes
to it again (30_encoding.md R33, R34).
-/

/-- The encoding of `i` is well formed and decodes to `i`. -/
def Sys2Proof.Laws.EncodeDecode.Statement (i : Sys2Proof.Instr) : Prop :=
  (Sys2Proof.encode i).wellFormed = true ∧ Sys2Proof.decode (Sys2Proof.encode i) = .ok i

theorem Sys2Proof.Laws.EncodeDecode.not (a : Sys2Proof.Word) :
    Sys2Proof.Laws.EncodeDecode.Statement (.not a) := ⟨rfl, rfl⟩

theorem Sys2Proof.Laws.EncodeDecode.and (a b : Sys2Proof.Word) :
    Sys2Proof.Laws.EncodeDecode.Statement (.and a b) := ⟨rfl, rfl⟩

theorem Sys2Proof.Laws.EncodeDecode.or (a b : Sys2Proof.Word) :
    Sys2Proof.Laws.EncodeDecode.Statement (.or a b) := ⟨rfl, rfl⟩

theorem Sys2Proof.Laws.EncodeDecode.xor (a b : Sys2Proof.Word) :
    Sys2Proof.Laws.EncodeDecode.Statement (.xor a b) := ⟨rfl, rfl⟩

theorem Sys2Proof.Laws.EncodeDecode.lshift (a : Sys2Proof.Word) (n : Sys2Proof.Amount) :
    Sys2Proof.Laws.EncodeDecode.Statement (.lshift a n) := ⟨rfl, rfl⟩

theorem Sys2Proof.Laws.EncodeDecode.urshift (a : Sys2Proof.Word) (n : Sys2Proof.Amount) :
    Sys2Proof.Laws.EncodeDecode.Statement (.urshift a n) := ⟨rfl, rfl⟩
end

