-- ==== Sys2Proof/Tests/Slice0.lean ====
section
/-!
SUPPORT. Tests of the model against the spec's own numbers (95_test_vectors.md; the section stands at each), smoke tests of
WellFormed, and a witness for the hypotheses of each statement that has some.
-/

namespace Sys2Proof.Tests

open Sys2Proof.Machine

/-- The next state of a step, if it has one. -/
def after (o : Host.Outcome State Fault Refusal) : Option State :=
  match o with
  | .next s => some s
  | .fault _ => none
  | .refused _ => none

/-- The refusal of a step, if it ends in one. -/
def refusal (o : Host.Outcome State Fault Refusal) : Option Refusal :=
  match o with
  | .next _ => none
  | .fault _ => none
  | .refused q => some q

/-- The fault of a step, if it ends in one. -/
def stop (o : Host.Outcome State Fault Refusal) : Option Fault :=
  match o with
  | .next _ => none
  | .fault f => some f
  | .refused _ => none

/-- The state in which the host presents these lines and has had these exchanges. -/
def host (lines : List HostLine) (log : List Exchange) : State where
  pending := lines
  log := log

/-- The response to a request word, presented after reset. -/
def answer (w : Nat) : Option Response :=
  ((after (step (State.reset.withFetchWord 120 w))).bind (·.responses.getLast?))

/-- The outcome of a call, presented after reset. -/
def answerOfCall (c : Call HostValue) : Option Response :=
  let arg (v : HostValue) : CallArg := .value v
  let line : Call CallArg := match c with
    | .not a => .not (arg a)
    | .and a b => .and (arg a) (arg b)
    | .or a b => .or (arg a) (arg b)
    | .xor a b => .xor (arg a) (arg b)
    | .lshift a n => .lshift (arg a) (arg n)
    | .urshift a n => .urshift (arg a) (arg n)
  ((after (step (host [.call line] []))).bind (·.responses.getLast?))

/-! ## Decoding: words written out field by field from 30_encoding.md R41 -/

/-- `{a, b, n, op}` with the four fields written out: a = 5, b = 3, n = 2 and each code. -/
theorem test_decode_not : decodeWord (5#53 ++ 3#53 ++ 2#6 ++ 0b000#3) = .ok (.not 5) := by rfl

theorem test_decode_and : decodeWord (5#53 ++ 3#53 ++ 2#6 ++ 0b001#3) = .ok (.and 5 3) := by rfl

theorem test_decode_or : decodeWord (5#53 ++ 3#53 ++ 2#6 ++ 0b010#3) = .ok (.or 5 3) := by rfl

theorem test_decode_xor : decodeWord (5#53 ++ 3#53 ++ 2#6 ++ 0b011#3) = .ok (.xor 5 3) := by rfl

theorem test_decode_lshift : decodeWord (5#53 ++ 3#53 ++ 2#6 ++ 0b100#3) = .ok (.lshift 5 2) := by rfl

theorem test_decode_urshift : decodeWord (5#53 ++ 3#53 ++ 2#6 ++ 0b101#3) = .ok (.urshift 5 2) := by rfl

/-- Section 3.8: the two reserved words. -/
theorem test_decode_reserved :
    decodeTableWord 120 6 = none ∧ decodeTableWord 120 0x7FFFFFFFFFFFFFFFFFFFFFFFFFFFF = none := by decide

/-- A number of more than 115 bits is no request word (R41). -/
theorem test_decode_too_wide : decodeTableWord 120 (2 ^ 115) = none := by decide

/-- The encoder, on the word of section 3.9. -/
theorem test_encode_and :
    (encodeWord (.and 0x123456789ABCDE 0x0FEDCBA9876543)).toNat = 0x48D159E26AF379FDB97530ECA8601 := by decide

/-- Section 3.9: `RESP` = 0x00000200000000 has `err` 0 and `result` 0x80000000. -/
theorem test_response_word : decodeResponse 0x00000200000000 = .ok (.ok 0x00000080000000) := by rfl

/-- Section 3.3: the response word of AND; and `err` 2 under whatever upper bits. -/
theorem test_response_word_written :
    (encodeResponse 0 (.ok 0x02244228822442)).toNat = 0x089108A2089108 ∧
    decodeResponse (encodeResponse 0x15555555555555 (.error .invalidShiftAmount)) = .ok (.error .invalidShiftAmount) :=
  ⟨by decide, by rfl⟩

/-! ## The operations: one step from the request word -/

/-- Section 3.2. -/
theorem test_not_pattern : answer 0x48D159E26AF378000000000000000 = some (.ok 0x0DCBA987654321) := by decide

/-- Section 3.8: NOT ignores `b` of all ones and `n` = 63. -/
theorem test_not_ignores : answer 0x00000000000003FFFFFFFFFFFFFF8 = some (.ok 0x1FFFFFFFFFFFFF) := by decide

/-- Section 3.3. -/
theorem test_and_pattern : answer 0x48D159E26AF379FDB97530ECA8601 = some (.ok 0x02244228822442) := by decide

/-- Section 3.8: AND ignores `n` = 53. -/
theorem test_and_ignores : answer 0x00000000000028000000000000DA9 = some (.ok 2) := by decide

/-- Section 3.3. -/
theorem test_or_pattern : answer 0x48D159E26AF379FDB97530ECA8602 = some (.ok 0x1FFDDFF99FFDDF) := by decide

/-- Section 3.3: bits 30 and 31, neighbours in different chunks. -/
theorem test_or_boundary : answer 0x00000300000000000010000000002 = some (.ok 0x000000C0000000) := by decide

/-- Section 3.3. -/
theorem test_xor_pattern : answer 0x48D159E26AF379FDB97530ECA8603 = some (.ok 0x1DD99DD11DD99D) := by decide

/-- Section 3.3: bits 30 and 31. -/
theorem test_xor_boundary : answer 0x00000300000000000010000000003 = some (.ok 0x00000040000000) := by decide

/-- Section 3.4: one amount in each regime, 21, 23 and 32. -/
theorem test_lshift_regimes :
    answer 0x48D159E26AF3780000000000000AC = some (.ok 0x0F13579BC00000) ∧
    answer 0x48D159E26AF3780000000000000BC = some (.ok 0x1C4D5E6F000000) ∧
    answer 0x48D159E26AF378000000000000104 = some (.ok 0x1ABCDE00000000) := by decide

/-- Section 3.8: 52 is an amount; 53 is the error. -/
theorem test_lshift_limit :
    answer 0x000000000000040000000000001A4 = some (.ok 0x10000000000000) ∧
    answer 0x000000000000040000000000001AC = some (.error .invalidShiftAmount) := by decide

/-- Section 3.7: one amount in each regime, 21, 23 and 32. -/
theorem test_urshift_regimes :
    answer 0x48D159E26AF3780000000000000AD = some (.ok 0x00000091A2B3C4) ∧
    answer 0x48D159E26AF3780000000000000BD = some (.ok 0x0000002468ACF1) ∧
    answer 0x48D159E26AF378000000000000105 = some (.ok 0x00000000123456) := by decide

/-- Section 3.8: 52 is an amount; 53 is the error. -/
theorem test_urshift_limit :
    answer 0x7FFFFFFFFFFFFC0000000000001A5 = some (.ok 1) ∧
    answer 0x7FFFFFFFFFFFFC0000000000001AD = some (.error .invalidShiftAmount) := by decide

/-- Section 3.1. -/
theorem test_split :
    chunkSplit 0x123456789ABCDE = { lower := 0x789ABCDE, upper := 0x2468AC } ∧
    chunkRecombine { lower := 0x2AAAAAAA, upper := 0x155555 } = 0x0AAAAAAAAAAAAA := by decide

/-- Section 3.8: a reserved code gets no response. -/
theorem test_reserved_refused : refusal (step (State.reset.withFetchWord 120 6)) = some (.reservedOp 6) := by decide

/-- With no line left nothing happens. -/
theorem test_idle : after (step State.reset) = some State.reset := by decide

/-! ## The call level: section 1 and the last table of section 3.8 -/

theorem test_call_operands :
    answerOfCall (.and (.integer (-1)) (.integer 0)) = some (.error .invalidOperand) ∧
    answerOfCall (.and (.integer 9007199254740992) (.integer 0)) = some (.error .invalidOperand) ∧
    answerOfCall (.not (.integer 9007199254740991)) = some (.ok 0) ∧
    answerOfCall (.not .notAnInteger) = some (.error .invalidOperand) ∧
    answerOfCall (.xor (.integer 0) (.integer (-1))) = some (.error .invalidOperand) := by decide

theorem test_call_amounts :
    answerOfCall (.lshift (.integer 1) (.integer (-1))) = some (.error .invalidShiftAmount) ∧
    answerOfCall (.urshift (.integer 1) (.integer 64)) = some (.error .invalidShiftAmount) ∧
    answerOfCall (.lshift (.integer (-1)) (.integer 53)) = some (.error .invalidOperand) ∧
    answerOfCall (.lshift (.integer 0) (.integer 52)) = some (.ok 0) := by decide

/-- A value that cannot be classified is refused, unless an earlier argument already failed (R92, R98). -/
theorem test_call_unclassified :
    refusal (step (host [.call (.not (.value .unclassified))] [])) = some .unclassifiedArgument ∧
    answerOfCall (.and (.integer (-1)) .unclassified) = some (.error .invalidOperand) := by decide

/-- Section 4, P5: a line that needs the missing result is not presented. -/
theorem test_missing_result :
    stop (step (host [.ports 0 (.result 0) (.pattern 0) 0]
      [.answered (.lshift 0 53) (.error .invalidShiftAmount)])) = some (.noResult 0) := by decide

/-- Section 4, P2: the text of two lines, `x` being a number of the host's, and the second line's step. -/
theorem test_assemble_two_lines :
    assembleFrom 0 [(['x'], .number 0x123456789ABCDE)]
      [['r', '1', ' ', '=', ' ', 'L', 'S', 'H', 'I', 'F', 'T', ' ', 'x', ',', ' ', '1', '2'],
       ['U', 'R', 'S', 'H', 'I', 'F', 'T', ' ', 'r', '1', ',', ' ', '0', 'x', '2', '1']] =
      .ok [.ports 4 (.pattern 0x123456789ABCDE) (.pattern 0) 12, .ports 5 (.result 0) (.pattern 0) 33] := by rfl

/-- The spelling of the tables: `0x`, upper-case letters, padded to 14 digits (0x0FEDCBA9876543 of section 3.3 has each letter);
and section 1's `0b1010`. -/
theorem test_read_spec_spelling :
    readNumber ['0', 'x', '0', 'F', 'E', 'D', 'C', 'B', 'A', '9', '8', '7', '6', '5', '4', '3'] = some 0x0FEDCBA9876543 ∧
    readNumber ['0', 'b', '1', '0', '1', '0'] = some 10 := by decide

/-! ## WellFormed refuses -/

theorem test_wellFormed_request :
    Request.wellFormed { op := 6, a := 0, b := 0, n := 0 } = false ∧
    Request.wellFormed { op := 5, a := 0, b := 0, n := 63 } = true := by decide

theorem test_wellFormed_response : ResponseWord.wellFormed 3 = false ∧ ResponseWord.wellFormed 2 = true := by decide

theorem test_wellFormed_line_reserved : (HostLine.ports 7 (.pattern 0) (.pattern 0) 0).wellFormed 0 = false := by decide

theorem test_wellFormed_line_later_result :
    (HostLine.ports 0 (.result 1) (.pattern 0) 0).wellFormed 1 = false ∧
    (HostLine.ports 0 (.result 0) (.pattern 0) 0).wellFormed 1 = true := by decide

theorem test_wellFormed_line_unclassified : (HostLine.call (.not (.value .unclassified))).wellFormed 0 = false := by decide

/-! ## Witnesses: a case that meets the hypotheses of each statement that has some -/

theorem witness_RequestWordLaysOutThePorts : decodeWord 5 = .ok (.urshift 0 0) := by rfl

theorem witness_DecodingKeepsTheUsedPorts :
    decode ⟨0, 1, 2, 3⟩ = .ok (.not 1) ∧ decode ⟨3, 1, 2, 3⟩ = .ok (.xor 1 2) ∧ decode ⟨4, 1, 2, 3⟩ = .ok (.lshift 1 3) :=
  ⟨rfl, rfl, rfl⟩

theorem witness_ReservedCodesStopTheStep :
    (host [.ports 7 (.pattern 1) (.result 0) 3] [.answered (.not 5) (.ok 10)]).pending =
      .ports 7 (.pattern 1) (.result 0) 3 :: [] ∧
    readSource (host [] [.answered (.not 5) (.ok 10)]) (.result 0) = .ok 10 ∧
    readSource (host [] [.answered (.not 5) (.ok 10)]) (.pattern 1) = .ok 1 := ⟨rfl, rfl, rfl⟩

/-- Two requests of NOT that differ in both ignored ports, and of LSHIFT that differ in `b`. -/
theorem witness_IgnoredPortsHaveNoEffect :
    (⟨0, 9, 1, 2⟩ : Request) ≠ ⟨0, 9, 3, 63⟩ ∧
    ¬(1 ≤ (0 : OpCode).toNat ∧ (0 : OpCode).toNat ≤ 3) ∧ ¬(4 ≤ (0 : OpCode).toNat) ∧
    (⟨4, 9, 1, 2⟩ : Request) ≠ ⟨4, 9, 3, 2⟩ ∧ ¬(1 ≤ (4 : OpCode).toNat ∧ (4 : OpCode).toNat ≤ 3) := by decide

/-- Also for LeftShiftRejectsInvalidAmounts and CallsAreAnsweredAsTheirRequests: operands and amounts that fail, at the ends
of their ranges. -/
theorem witness_failing_arguments :
    (HostValue.integer (-1)).FailsU53 ∧ (HostValue.integer 9007199254740992).FailsU53 ∧ HostValue.notAnInteger.FailsU53 ∧
    (HostValue.integer 9007199254740991).validU53 = true ∧ (HostValue.integer 0).validU53 = true ∧
    (HostValue.integer 53).FailsShift ∧ (HostValue.integer (-1)).FailsShift ∧ HostValue.notAnInteger.FailsShift ∧
    (Call.lshift (.integer 0) (.integer 53)).RejectedWith .invalidShiftAmount ∧
    (Call.xor (.integer 0) (.integer (-1))).RejectedWith .invalidOperand := by decide

theorem witness_ResponseWordReadsBack : decodeResponse 6 = .ok (.error .invalidShiftAmount) ∧ (7 : ResponseWord).toNat % 4 = 3 :=
  ⟨rfl, by decide⟩

theorem witness_wired_bits : (30 : Nat) ≤ 30 ∧ (21 : Nat) ≤ 21 ∧ (52 : Nat) ≤ 52 := by decide

theorem witness_RecombinerUndoesSplitter : chunkSplit 0x80000000 = chunkSplit 0x80000000 := rfl

/-- Also for RightShiftChunksInEachRegime, the two completion statements, ShiftsMoveEveryBit and ShiftsThereAndBack: both ends
of each regime. -/
theorem witness_LeftShiftChunksInEachRegime :
    (31 ≤ (31 : Amount).toNat ∧ (31 : Amount).toNat ≤ 52) ∧ (31 ≤ (52 : Amount).toNat ∧ (52 : Amount).toNat ≤ 52) ∧
    (22 ≤ (22 : Amount).toNat ∧ (22 : Amount).toNat ≤ 30) ∧ (22 ≤ (30 : Amount).toNat ∧ (30 : Amount).toNat ≤ 30) ∧
    (21 : Amount).toNat ≤ 21 ∧ (0 : Amount).toNat = 0 := by decide

theorem witness_InvalidAmountsAreAnsweredWithTheError : 53 ≤ (53 : Amount).toNat ∧ 53 ≤ (63 : Amount).toNat := by decide

theorem witness_LeftShiftRejectsInvalidAmounts :
    (⟨4, 1, 0, 53⟩ : Request).op = 4 ∧ 53 ≤ (⟨4, 1, 0, 53⟩ : Request).n.toNat ∧ (HostValue.integer 1).validU53 = true ∧
    (HostValue.integer 64).FailsShift := by decide

/-- Also for ChunkResultsAreInRange and NativeDatapathGivesTheExactChunks: the largest chunks. -/
theorem witness_MiddleRegimeNeedsNoUpperChunk :
    (22 ≤ 22 ∧ 22 ≤ 30 ∧ 2 ^ 31 - 1 < 2 ^ 31 ∧ 2 ^ 22 - 1 < 2 ^ 22) ∧ (22 ≤ 30 ∧ 30 ≤ 30) ∧ (52 : Nat) ≤ 52 := by decide

/-- A first shift that loses bits, and a sum at the end of its range. -/
theorem witness_ShiftsCompose :
    (22 : Amount).toNat + (30 : Amount).toNat ≤ 52 ∧ (1 : Amount).toNat + (1 : Amount).toNat ≤ 52 := by decide

theorem witness_DefinedRequestsHaveResults :
    (⟨5, 1, 2, 53⟩ : Request).op.toNat ≤ 5 ∧ (⟨3, 1, 2, 53⟩ : Request).op.toNat ≤ 5 ∧ (⟨5, 1, 2, 52⟩ : Request).op.toNat ≤ 5 := by
  decide

/-- A line that copies an earlier result. -/
theorem witness_StepRunsThePresentedOperation :
    (host [.ports 1 (.result 0) (.pattern 6) 0] [.answered (.not 5) (.ok 10)]).pending =
      .ports 1 (.result 0) (.pattern 6) 0 :: [] ∧
    readSource (host [.ports 1 (.result 0) (.pattern 6) 0] [.answered (.not 5) (.ok 10)]) (.result 0) = .ok 10 ∧
    readSource (host [] []) (.pattern 6) = .ok 6 ∧ decode ⟨1, 10, 6, 0⟩ = .ok (.and 10 6) :=
  ⟨rfl, rfl, rfl, rfl⟩

/-- A call that becomes a request, and one that is turned away. -/
theorem witness_StepRunsThePresentedCall :
    readCall (host [] []) (.not (.value (.integer 5))) = .ok (.not (.integer 5)) ∧
    validateCall (.not (.integer 5)) = .request ⟨0, 5, 0, 0⟩ ∧ decode ⟨0, 5, 0, 0⟩ = .ok (.not 5) ∧
    readCall (host [] []) (.not (.value (.integer (-1)))) = .ok (.not (.integer (-1))) ∧
    validateCall (.not (.integer (-1))) = .rejected .invalidOperand := ⟨rfl, by decide, rfl, rfl, by decide⟩

/-- A call refused in its first argument, and one in its second. -/
theorem witness_StepRunsThePresentedCall_refused :
    readCall (host [] []) (.not (.value .unclassified)) = .ok (.not .unclassified) ∧
    (Call.not .unclassified).Unclassifiable ∧ validateCall (.not .unclassified) = .unclassified ∧
    (Call.urshift (.integer 9007199254740991) .unclassified).Unclassifiable ∧
    ¬(Call.urshift (.integer 9007199254740992) .unclassified).Unclassifiable := ⟨rfl, by decide, rfl, by decide, by decide⟩

/-- Also for StepOnlyAddsOneExchange: a state with a right log of two exchanges, and its next state. -/
theorem witness_EveryStepKeepsTheLogRight :
    (host [.ports 0 (.pattern 0) (.pattern 0) 0]
      [.answered (.and 10 6) (.ok 2), .answered (.lshift 1 53) (.error .invalidShiftAmount)]).Inv ∧
    after (step (host [.ports 0 (.pattern 0) (.pattern 0) 0]
      [.answered (.and 10 6) (.ok 2), .answered (.lshift 1 53) (.error .invalidShiftAmount)])) =
      some (host [] [.answered (.and 10 6) (.ok 2), .answered (.lshift 1 53) (.error .invalidShiftAmount),
        .answered (.not 0) (.ok 0x1FFFFFFFFFFFFF)]) := by
  refine ⟨?_, by decide⟩
  intro x hx
  simp only [host, List.mem_cons, List.not_mem_nil, or_false] at hx
  rcases hx with rfl | rfl <;> decide

/-- Also for TheBlockAnswersOnAfterAnError: a request with an error and one with a result. -/
theorem witness_ResponseDependsOnTheRequestAlone :
    eval ⟨4, 1, 0, 53⟩ = some (.error .invalidShiftAmount) ∧ eval ⟨1, 10, 6, 0⟩ = some (.ok 2) ∧
    (State.reset.present ⟨1, 10, 6, 0⟩).pending = [Request.line ⟨1, 10, 6, 0⟩] := by decide

theorem witness_RequestsDoNotInteract :
    (∀ r ∈ [(⟨1, 10, 6, 0⟩ : Request), ⟨4, 1, 0, 53⟩], r.wellFormed = true) ∧
    (host ([(⟨1, 10, 6, 0⟩ : Request), ⟨4, 1, 0, 53⟩].map Request.line) []).pending =
      [(⟨1, 10, 6, 0⟩ : Request), ⟨4, 1, 0, 53⟩].map Request.line := by decide

/-- A copy that steps, one that stops, and a place with none. -/
theorem witness_CopiesDoNotInteract :
    (0 : Nat) ≠ 1 ∧
    [host [Request.line ⟨1, 10, 6, 0⟩] [], host [Request.line ⟨6, 0, 0, 0⟩] []][0]? =
      some (host [Request.line ⟨1, 10, 6, 0⟩] []) ∧
    after (step (host [Request.line ⟨1, 10, 6, 0⟩] [])) = some (host [] [.answered (.and 10 6) (.ok 2)]) ∧
    stepCopy 0 [host [Request.line ⟨1, 10, 6, 0⟩] [], host [Request.line ⟨6, 0, 0, 0⟩] []] =
      some [host [] [.answered (.and 10 6) (.ok 2)], host [Request.line ⟨6, 0, 0, 0⟩] []] ∧
    after (step (host [Request.line ⟨6, 0, 0, 0⟩] [])) = none ∧ [State.reset][1]? = none := by decide

/-- The fault and both refusals occur. -/
theorem witness_StepStopsOnlyForTheHost :
    stop (step (host [.ports 0 (.result 3) (.pattern 0) 0] [])) = some (.noResult 3) ∧
    refusal (step (host [.ports 7 (.pattern 0) (.pattern 0) 0] [])) = some (.reservedOp 7) ∧
    refusal (step (host [.call (.lshift (.value (.integer 1)) (.value .unclassified))] [])) =
      some .unclassifiedArgument := by decide

theorem witness_WellFormedLinesAreAnswered :
    (HostLine.call (.lshift (.result 0) (.value .notAnInteger))).wellFormed 1 = true ∧
    (∀ k ∈ (HostLine.call (.lshift (.result 0) (.value .notAnInteger))).reads,
      (host [] [.answered (.not 5) (.ok 10)]).resultOf k ≠ none) := by decide

/-- Hexadecimal digits in mixed case, a number with each letter. -/
theorem witness_AssemblerReadsTheThreeBases :
    ['F', 'e', 'D', 'c', 'B', 'a'].map Char.toLower = Nat.toDigits 16 0xFEDCBA := by decide

/-- A name that is a number. -/
theorem witness_WrittenLinesAssembleToTheirRequest : Statements.OneOperand ['5'] ∧ readNumber ['5'] = some 5 := by
  refine ⟨⟨?_, ?_, ?_, ?_⟩, ?_⟩ <;> decide

/-- A name, and a result that has a value. -/
theorem witness_NamedResultsFeedLaterLines : Statements.IsName ['r', '1'] ∧ respond (.and 10 6) = .ok 2 := by
  refine ⟨⟨⟨?_, ?_, ?_, ?_⟩, ?_⟩, ?_⟩ <;> decide

/-- A number in binary on a port, one that is an amount, and a name that stands for a result. -/
theorem witness_OperandsAreNumbersOrNames :
    Statements.Writes [] ['0', 'b', '1', '1'] (.number 3) ∧ Statements.OnPort (.number 3) (.pattern 3) ∧
    AsmOperand.number 3 = .number (3 : Amount).toNat ∧
    Statements.Writes [(['r'], .result 5)] ['r'] (.result 5) ∧ Statements.OnPort (.result 5) (.result 5) :=
  ⟨⟨by refine ⟨?_, ?_, ?_, ?_⟩ <;> decide, .inl ⟨3, by decide, rfl⟩⟩, .inl ⟨3, rfl, rfl⟩, rfl,
    ⟨by refine ⟨?_, ?_, ?_, ?_⟩ <;> decide, .inr ⟨by decide, rfl⟩⟩, .inr ⟨5, rfl, rfl⟩⟩

end Sys2Proof.Tests
end

/-! # Proofs: encoding and decoding (30_encoding.md)

In five parts: the decoder, ignored ports, the request word, the response word, and calls. -/

namespace Sys2Proof.Machine

/-! ## The decoder -/

/-- The eight patterns of the port `op`. -/
theorem opCode_cases (op : OpCode) :
    op = 0 ∨ op = 1 ∨ op = 2 ∨ op = 3 ∨ op = 4 ∨ op = 5 ∨ op = 6 ∨ op = 7 := by
  revert op
  decide

/-- All the decoder can answer: the operation of each defined code, with the ports it uses, and the rejection of a
reserved code (30_encoding.md R33, R34, R36). -/
theorem decode_cases (r : Request) :
    (r.op = 0 ∧ decode r = .ok (.not r.a)) ∨ (r.op = 1 ∧ decode r = .ok (.and r.a r.b)) ∨
    (r.op = 2 ∧ decode r = .ok (.or r.a r.b)) ∨ (r.op = 3 ∧ decode r = .ok (.xor r.a r.b)) ∨
    (r.op = 4 ∧ decode r = .ok (.lshift r.a r.n)) ∨ (r.op = 5 ∧ decode r = .ok (.urshift r.a r.n)) ∨
    ((r.op = 6 ∨ r.op = 7) ∧ decode r = .error (.reservedOp r.op)) := by
  obtain ⟨op, a, b, n⟩ := r
  rcases opCode_cases op with rfl | rfl | rfl | rfl | rfl | rfl | rfl | rfl <;> simp [decode]

/-- Decoding keeps the operation code. -/
theorem encode_op_of_decode {r : Request} {i : Instr} (h : decode r = .ok i) : (encode i).op = r.op := by
  rcases decode_cases r with
    ⟨hop, hd⟩ | ⟨hop, hd⟩ | ⟨hop, hd⟩ | ⟨hop, hd⟩ | ⟨hop, hd⟩ | ⟨hop, hd⟩ | ⟨-, hd⟩ <;>
    cases hd.symm.trans h <;> exact hop.symm

/-- The decoder rejects exactly the two reserved codes. -/
theorem decode_error_iff (r : Request) : decode r = .error (.reservedOp r.op) ↔ r.op = 6 ∨ r.op = 7 := by
  rcases decode_cases r with
    ⟨hop, hd⟩ | ⟨hop, hd⟩ | ⟨hop, hd⟩ | ⟨hop, hd⟩ | ⟨hop, hd⟩ | ⟨hop, hd⟩ | ⟨hop, hd⟩
  case inr.inr.inr.inr.inr.inr => exact iff_of_true hd hop
  all_goals simp [hd, hop]

/-- A request has no response exactly where the decoder rejects it. -/
theorem eval_eq_none_iff (r : Request) : eval r = none ↔ decode r = .error (.reservedOp r.op) := by
  unfold eval
  rcases decode_cases r with
    ⟨-, hd⟩ | ⟨-, hd⟩ | ⟨-, hd⟩ | ⟨-, hd⟩ | ⟨-, hd⟩ | ⟨-, hd⟩ | ⟨-, hd⟩ <;>
    simp [hd]

/-- Settles O5: both sides say that the decoder rejects the request. -/
theorem reservedCodesGetNoResponse : Obligations.ReservedCodesGetNoResponse :=
  fun r => ⟨(eval_eq_none_iff r).trans (decode_error_iff r), decode_error_iff r⟩

/-! ## Ignored ports -/

/-- The decoder reads `op`, `a`, `b` where the operation has two operands, and `n` where it is a shift
(30_encoding.md R34). -/
theorem decode_congr {r r' : Request} (hop : r.op = r'.op) (ha : r.a = r'.a)
    (hb : 1 ≤ r.op.toNat ∧ r.op.toNat ≤ 3 → r.b = r'.b) (hn : 4 ≤ r.op.toNat → r.n = r'.n) :
    decode r = decode r' := by
  obtain ⟨op, a, b, n⟩ := r
  obtain ⟨op', a', b', n'⟩ := r'
  obtain rfl : op = op' := hop
  obtain rfl : a = a' := ha
  replace hb : 1 ≤ op.toNat ∧ op.toNat ≤ 3 → b = b' := hb
  replace hn : 4 ≤ op.toNat → n = n' := hn
  rcases opCode_cases op with rfl | rfl | rfl | rfl | rfl | rfl | rfl | rfl
  · rfl
  · obtain rfl : b = b' := hb (by decide)
    rfl
  · obtain rfl : b = b' := hb (by decide)
    rfl
  · obtain rfl : b = b' := hb (by decide)
    rfl
  · obtain rfl : n = n' := hn (by decide)
    rfl
  · obtain rfl : n = n' := hn (by decide)
    rfl
  · rfl
  · rfl

/-- The response is a function of the decoded operation. -/
theorem eval_congr {r r' : Request} (h : decode r = decode r') : eval r = eval r' := by
  unfold eval
  rw [h]

/-- The response of a request that selects an operation. -/
theorem eval_of_decode {r : Request} {i : Instr} (h : decode r = .ok i) : eval r = some (respond i) := by
  unfold eval
  rw [h]

/-- NOT, AND, OR and XOR have a result, whatever the shift amount port holds. -/
theorem eval_bitwise_has_result {r : Request} (h : r.op.toNat ≤ 3) : ∃ v, eval r = some (.ok v) := by
  rcases decode_cases r with
    ⟨-, hd⟩ | ⟨-, hd⟩ | ⟨-, hd⟩ | ⟨-, hd⟩ | ⟨hop, -⟩ | ⟨hop, -⟩ | ⟨hop | hop, -⟩
  · exact ⟨_, eval_of_decode hd⟩
  · exact ⟨_, eval_of_decode hd⟩
  · exact ⟨_, eval_of_decode hd⟩
  · exact ⟨_, eval_of_decode hd⟩
  all_goals simp [hop] at h

/-- Settles O7: the decoder drops the ignored ports, and only the shifts have an error. -/
theorem ignoredPortsHaveNoEffect : Obligations.IgnoredPortsHaveNoEffect :=
  ⟨fun _ _ hop ha hb hn => eval_congr (decode_congr hop ha hb hn), fun _ h => eval_bitwise_has_result h⟩

/-! ## The request word -/

@[simp] theorem ofWord_a_toNat (w : RequestWord) : (Request.ofWord w).a.toNat = w.toNat / 2 ^ 62 := by
  simp only [Request.ofWord, BitVec.extractLsb'_toNat, Nat.shiftRight_eq_div_pow]
  omega

@[simp] theorem ofWord_b_toNat (w : RequestWord) : (Request.ofWord w).b.toNat = w.toNat / 2 ^ 9 % 2 ^ 53 := by
  simp only [Request.ofWord, BitVec.extractLsb'_toNat, Nat.shiftRight_eq_div_pow]

@[simp] theorem ofWord_n_toNat (w : RequestWord) : (Request.ofWord w).n.toNat = w.toNat / 2 ^ 3 % 2 ^ 6 := by
  simp only [Request.ofWord, BitVec.extractLsb'_toNat, Nat.shiftRight_eq_div_pow]

@[simp] theorem ofWord_op_toNat (w : RequestWord) : (Request.ofWord w).op.toNat = w.toNat % 8 :=
  BitVec.extractLsb'_toNat ..

/-- The operation is selected by `REQ & 0x7` alone (30_encoding.md R41). -/
theorem ofWord_op_toNat_and (w : RequestWord) : (Request.ofWord w).op.toNat = w.toNat &&& 7 :=
  (ofWord_op_toNat w).trans (Nat.and_two_pow_sub_one_eq_mod _ 3).symm

/-- The four fields fit in 115 bits, so the word has their sum as its value. -/
@[simp] theorem toWord_toNat (r : Request) :
    r.toWord.toNat = r.a.toNat * 2 ^ 62 + r.b.toNat * 2 ^ 9 + r.n.toNat * 2 ^ 3 + r.op.toNat := by
  rw [Request.toWord, BitVec.toNat_ofNat, Nat.mod_eq_of_lt]
  omega

/-- Requests with the same numbers on the four ports are the same. -/
theorem request_eq_of_toNat_eq {r r' : Request} (hop : r.op.toNat = r'.op.toNat) (ha : r.a.toNat = r'.a.toNat)
    (hb : r.b.toNat = r'.b.toNat) (hn : r.n.toNat = r'.n.toNat) : r = r' := by
  cases r
  cases r'
  simp_all [BitVec.toNat_inj]

theorem ofWord_toWord (r : Request) : Request.ofWord r.toWord = r := by
  apply request_eq_of_toNat_eq <;> simp only [ofWord_a_toNat, ofWord_b_toNat, ofWord_n_toNat, ofWord_op_toNat,
    toWord_toNat] <;> omega

theorem toWord_ofWord (w : RequestWord) : (Request.ofWord w).toWord = w := by
  apply BitVec.eq_of_toNat_eq
  simp only [toWord_toNat, ofWord_a_toNat, ofWord_b_toNat, ofWord_n_toNat, ofWord_op_toNat]
  omega

/-- Settles O1: the word's value is the sum of its fields, so quotients and remainders read them back. -/
theorem requestWordLaysOutThePorts : Obligations.RequestWordLaysOutThePorts := by
  refine ⟨fun r => ⟨toWord_toNat r, ofWord_toWord r⟩, fun w => ?_, fun w i h => ?_⟩
  · exact ⟨toWord_ofWord w, ofWord_a_toNat w, ofWord_b_toNat w, ofWord_n_toNat w, ofWord_op_toNat_and w⟩
  · rw [encode_op_of_decode h, ofWord_op_toNat_and]

/-! ## The response word -/

theorem err_toNat_lt_three (r : Response) : r.err.toNat < 3 := by
  rcases r with v | _ | _ <;> simp [Response.err, ErrorKind.code]

/-- Result and status fit in 55 bits. -/
@[simp] theorem encodeResponse_toNat (open53 : Word) (r : Response) :
    (encodeResponse open53 r).toNat = (r.value?.getD open53).toNat * 2 ^ 2 + r.err.toNat := by
  have herr := err_toNat_lt_three r
  rw [encodeResponse, BitVec.toNat_ofNat, Nat.mod_eq_of_lt]
  omega

/-- The status bits of a response word, `err` = `RESP mod 4`. -/
theorem status_toNat (w : ResponseWord) : (w.extractLsb' 0 2).toNat = w.toNat % 4 :=
  BitVec.extractLsb'_toNat ..

theorem encodeResponse_status (open53 : Word) (r : Response) :
    (encodeResponse open53 r).toNat % 4 = r.err.toNat := by
  have herr := err_toNat_lt_three r
  rw [encodeResponse_toNat]
  omega

/-- The upper bits of a result's word are the result. -/
theorem encodeResponse_ok_resultBits (open53 v : Word) :
    (encodeResponse open53 (.ok v)).extractLsb' 2 53 = v := by
  apply BitVec.eq_of_toNat_eq
  simp [Nat.shiftRight_eq_div_pow, Response.value?, Response.err, v.isLt]

/-- All the response decoder can answer, by the status bits (30_encoding.md R37, R42). -/
theorem decodeResponse_cases (w : ResponseWord) :
    (w.toNat % 4 = 0 ∧ decodeResponse w = .ok (.ok (w.extractLsb' 2 53))) ∨
    (w.toNat % 4 = 1 ∧ decodeResponse w = .ok (.error .invalidOperand)) ∨
    (w.toNat % 4 = 2 ∧ decodeResponse w = .ok (.error .invalidShiftAmount)) ∨
    (w.toNat % 4 = 3 ∧ decodeResponse w = .error .unusedStatus) := by
  have hstatus : w.toNat % 4 = 0 ∨ w.toNat % 4 = 1 ∨ w.toNat % 4 = 2 ∨ w.toNat % 4 = 3 := by omega
  unfold decodeResponse
  rw [status_toNat]
  rcases hstatus with h | h | h | h <;> simp [h]

/-- Whatever the open bits are: they are read only where they hold the result. -/
theorem decodeResponse_encodeResponse (open53 : Word) (r : Response) :
    decodeResponse (encodeResponse open53 r) = .ok r := by
  unfold decodeResponse
  rw [status_toNat, encodeResponse_status]
  cases r with
  | ok v => simp [Response.err, encodeResponse_ok_resultBits]
  | error e => cases e <;> rfl

/-- A word that decodes is the word of its response, with its own upper bits where the response leaves them open. -/
theorem encodeResponse_of_decodeResponse {w : ResponseWord} {r : Response} (h : decodeResponse w = .ok r) :
    encodeResponse (w.extractLsb' 2 53) r = w := by
  apply BitVec.eq_of_toNat_eq
  rcases decodeResponse_cases w with ⟨hs, hd⟩ | ⟨hs, hd⟩ | ⟨hs, hd⟩ | ⟨-, hd⟩ <;>
    cases hd.symm.trans h <;>
    simp [Response.value?, Response.err, ErrorKind.code, Nat.shiftRight_eq_div_pow] <;> omega

/-- Status bits 3 are rejected, and nothing else is. -/
theorem decodeResponse_error_iff (w : ResponseWord) :
    w.toNat % 4 = 3 ↔ decodeResponse w = .error .unusedStatus := by
  rcases decodeResponse_cases w with ⟨hs, hd⟩ | ⟨hs, hd⟩ | ⟨hs, hd⟩ | ⟨hs, hd⟩ <;> simp [hs, hd]

/-- Settles O8: the status is the word's remainder by 4 and selects the response, the upper bits count for a result only. -/
theorem responseWordReadsBack : Obligations.ResponseWordReadsBack :=
  ⟨decodeResponse_encodeResponse,
    fun open53 v => encodeResponse_toNat open53 (.ok v),
    fun open53 => ⟨encodeResponse_toNat open53 (.error .invalidOperand),
      encodeResponse_toNat open53 (.error .invalidShiftAmount)⟩,
    fun _ _ h => ⟨_, encodeResponse_of_decodeResponse h⟩,
    decodeResponse_error_iff⟩

/-! ## Calls -/

theorem evalCall_of_request {c : Call HostValue} {r : Request} (h : validateCall c = .request r) :
    evalCall c = eval r := by
  unfold evalCall
  rw [h]

theorem evalCall_of_rejected {c : Call HostValue} {e : ErrorKind} (h : validateCall c = .rejected e) :
    evalCall c = some (.error e) := by
  unfold evalCall
  rw [h]

/-- A call's answer is the response of every request that decodes as the call's own. -/
theorem evalCall_eq_eval {c : Call HostValue} {r r' : Request} (h : validateCall c = .request r)
    (hd : decode r = decode r') : evalCall c = eval r' :=
  (evalCall_of_request h).trans (eval_congr hd)

/-- Every number of an operand port is a valid operand (60_exceptions.md R90). -/
theorem validU53_word (x : Word) : (HostValue.integer x.toNat).validU53 = true := by
  have hx := x.isLt
  rw [validU53_integer, Config.max53]
  omega

/-- It goes to the port unchanged (30_encoding.md R39). -/
theorem checkU53_word (x : Word) : (HostValue.integer x.toNat).checkU53 = .valid x := by
  rw [checkU53_valid (validU53_word x)]
  simp [HostValue.toPort]

/-- The call-level check of a number that fits the port is the check at the port (60_exceptions.md R91, R99). -/
theorem validShift_amount (n : Amount) : (HostValue.integer n.toNat).validShift = n.valid := by
  rw [Bool.eq_iff_iff, validShift_integer, amount_valid_iff]
  exact ⟨fun h => Int.ofNat_lt.1 h.2, fun h => ⟨Int.natCast_nonneg _, Int.ofNat_lt.2 h⟩⟩

/-- A valid amount goes to the port unchanged. -/
theorem checkShift_amount {n : Amount} (h : n.valid = true) :
    (HostValue.integer n.toNat).checkShift = .valid n := by
  rw [checkShift_valid ((validShift_amount n).trans h)]
  simp [HostValue.toPort]

theorem validateTwo_words (op : OpCode) (x y : Word) :
    validateTwo op (.integer x.toNat) (.integer y.toNat) = .request ⟨op, x, y, 0⟩ := by
  simp only [validateTwo, checkU53_word, Checked.orReject]

theorem validateShift_valid (op : OpCode) (x : Word) {n : Amount} (h : n.valid = true) :
    validateShift op (.integer x.toNat) (.integer n.toNat) = .request ⟨op, x, 0, n⟩ := by
  simp only [validateShift, checkU53_word, checkShift_amount h, Checked.orReject]

/-- A failing operand ends validation with InvalidOperand (60_exceptions.md R98). -/
theorem orReject_failsU53 {v : HostValue} (h : v.FailsU53) (go : Word → Admission) :
    v.checkU53.orReject .invalidOperand go = .rejected .invalidOperand := by
  obtain ⟨hclass, hinvalid⟩ := h
  rw [checkU53_invalid hclass hinvalid, Checked.orReject]

theorem validateTwo_rejected (op : OpCode) {a b : HostValue}
    (h : a.FailsU53 ∨ (a.validU53 = true ∧ b.FailsU53)) : validateTwo op a b = .rejected .invalidOperand := by
  unfold validateTwo
  rcases h with ha | ⟨ha, hb⟩
  · exact orReject_failsU53 ha _
  · rw [checkU53_valid ha]
    exact orReject_failsU53 hb _

/-- A valid operand and an invalid amount: the amount's error, in front of the ports (log entry 17). -/
theorem validateShift_rejected (op : OpCode) {a n : HostValue} (ha : a.validU53 = true) (hn : n.FailsShift) :
    validateShift op a n = .rejected .invalidShiftAmount := by
  obtain ⟨hclass, hinvalid⟩ := hn
  rw [validateShift, checkU53_valid ha, checkShift_invalid hclass hinvalid]
  rfl

/-- Validation turns a call away with the error of its first failing argument (60_exceptions.md R98). -/
theorem validateCall_of_rejectedWith {c : Call HostValue} {e : ErrorKind} (h : c.RejectedWith e) :
    validateCall c = .rejected e := by
  cases e with
  | invalidOperand =>
    cases c with
    | not a => exact orReject_failsU53 h _
    | and a b => exact validateTwo_rejected 1 h
    | or a b => exact validateTwo_rejected 2 h
    | xor a b => exact validateTwo_rejected 3 h
    | lshift a n => exact orReject_failsU53 h _
    | urshift a n => exact orReject_failsU53 h _
  | invalidShiftAmount =>
    cases c with
    | not a => exact h.elim
    | and a b => exact h.elim
    | or a b => exact h.elim
    | xor a b => exact h.elim
    | lshift a n => exact validateShift_rejected 4 h.1 h.2
    | urshift a n => exact validateShift_rejected 5 h.1 h.2

/-- An amount of 53 to 63 is an error of the call, in front of the ports. -/
theorem validateShift_invalid (op : OpCode) (x : Word) {n : Amount} (h : n.valid = false) :
    validateShift op (.integer x.toNat) (.integer n.toNat) = .rejected .invalidShiftAmount :=
  validateShift_rejected op (validU53_word x) ⟨nofun, (validShift_amount n).trans h⟩

theorem respond_lshift_invalid (a : Word) {n : Amount} (h : n.valid = false) :
    respond (.lshift a n) = .error .invalidShiftAmount := by
  simp [respond, answerLshift, h]

theorem respond_urshift_invalid (a : Word) {n : Amount} (h : n.valid = false) :
    respond (.urshift a n) = .error .invalidShiftAmount := by
  simp [respond, answerUrshift, h]

/-- A shift's call and its request agree: a valid amount goes to the port, and an invalid one is the same error in front of
the port and at it. -/
theorem evalCall_shift {c : Call HostValue} {op : OpCode} {x b : Word} {n : Amount} {i : Instr}
    (hc : validateCall c = validateShift op (.integer x.toNat) (.integer n.toNat))
    (hd : ∀ b, decode ⟨op, x, b, n⟩ = .ok i)
    (hr : n.valid = false → respond i = .error .invalidShiftAmount) : evalCall c = eval ⟨op, x, b, n⟩ := by
  cases h : n.valid with
  | true => exact evalCall_eq_eval (hc.trans (validateShift_valid op x h)) ((hd 0).trans (hd b).symm)
  | false => rw [evalCall_of_rejected (hc.trans (validateShift_invalid op x h)), eval_of_decode (hd b), hr h]

theorem validateCall_not_word (x : Word) : validateCall (.not (.integer x.toNat)) = .request ⟨0, x, 0, 0⟩ := by
  simp only [validateCall, checkU53_word, Checked.orReject]

/-- Settles O32: validation hands valid arguments to the ports, and the decoder drops the ports the operation ignores. -/
theorem callsAreAnsweredAsTheirRequests : Obligations.CallsAreAnsweredAsTheirRequests := by
  refine ⟨fun x y b n k => ⟨?_, ?_, ?_, ?_, ?_, ?_⟩,
    fun c e h => evalCall_of_rejected (validateCall_of_rejectedWith h)⟩
  · exact evalCall_eq_eval (validateCall_not_word x) rfl
  · exact evalCall_eq_eval (validateTwo_words 1 x y) rfl
  · exact evalCall_eq_eval (validateTwo_words 2 x y) rfl
  · exact evalCall_eq_eval (validateTwo_words 3 x y) rfl
  · exact evalCall_shift rfl (fun _ => rfl) (respond_lshift_invalid x)
  · exact evalCall_shift rfl (fun _ => rfl) (respond_urshift_invalid x)

end Sys2Proof.Machine

/-! # Proofs: the splitter (40_chunking.md)

What each chunk holds, said once as a number and once bit by bit. -/

namespace Sys2Proof.Machine

@[simp] theorem chunkSplit_lower_toNat (a : Word) : (chunkSplit a).lower.toNat = a.toNat % 2 ^ 31 :=
  BitVec.extractLsb'_toNat ..

/-- The upper chunk is the whole quotient: an operand has 53 bits, so 22 bits hold it (40_chunking.md R47). -/
@[simp] theorem chunkSplit_upper_toNat (a : Word) : (chunkSplit a).upper.toNat = a.toNat / 2 ^ 31 := by
  have hquotient : a.toNat / 2 ^ 31 < 2 ^ 22 := Nat.div_lt_of_lt_mul a.isLt
  rw [chunkSplit, BitVec.extractLsb'_toNat, Nat.shiftRight_eq_div_pow, Nat.mod_eq_of_lt hquotient]

/-- Bit `i` of the lower chunk is bit `i` of the operand; above bit 30 the chunk has none. -/
@[simp] theorem chunkSplit_lower_getLsbD (a : Word) (i : Nat) :
    (chunkSplit a).lower.getLsbD i = (decide (i < 31) && a.getLsbD i) := by
  rw [chunkSplit, BitVec.getLsbD_extractLsb', Nat.zero_add]

/-- Bit `j` of the upper chunk is bit `31 + j` of the operand, at every `j`: past bit 21 both are absent. -/
@[simp] theorem chunkSplit_upper_getLsbD (a : Word) (j : Nat) :
    (chunkSplit a).upper.getLsbD j = a.getLsbD (31 + j) := by
  rw [chunkSplit, BitVec.getLsbD_extractLsb']
  by_cases hj : j < 22
  · rw [decide_eq_true hj, Bool.true_and]
  · rw [decide_eq_false hj, Bool.false_and, BitVec.getLsbD_of_ge a (31 + j) (by omega)]

/-- Settles O9: the values are the chunk lemmas, and the model's field selection is the bit range of R45 by definition. -/
theorem splitIsRemainderAndQuotient : Obligations.SplitIsRemainderAndQuotient :=
  fun a => ⟨chunkSplit_lower_toNat a, chunkSplit_upper_toNat a, rfl, rfl⟩

/-- Settles O10: the bit lemmas of the two chunks, the lower one at its own bits. -/
theorem splitterWiresEveryBit : Obligations.SplitterWiresEveryBit := by
  refine fun a => ⟨fun i hi => ?_, fun j _ => chunkSplit_upper_getLsbD a j⟩
  have hin : i < 31 := Nat.lt_succ_of_le hi
  rw [chunkSplit_lower_getLsbD, decide_eq_true hin, Bool.true_and]

end Sys2Proof.Machine

/-! # Proofs: NOT (41_not.md)

NOT seen through the splitter: each chunk of the result is the complement of the operand's own chunk, as a bit vector of
that chunk's width. R55's numbers, bits and masks are read off it. -/

namespace Sys2Proof.Machine

/-- The splitter undoes the recombiner: the wires of 40_chunking.md R49 followed by those of R46. -/
@[simp] theorem chunkSplit_chunkRecombine (c : ChunkPair) : chunkSplit (chunkRecombine c) = c := by
  have hlower : (chunkRecombine c).extractLsb' 0 31 = c.lower := BitVec.extractLsb'_append_eq_right
  have hupper : (chunkRecombine c).extractLsb' 31 22 = c.upper := BitVec.extractLsb'_append_eq_left
  rw [chunkSplit, hlower, hupper]

/-- The complement of a natural under its mask is the bit vector's complement: the mask takes nothing away. -/
theorem ofNat_complement_and_mask {k : Nat} (x : BitVec k) :
    BitVec.ofNat k (complement k x.toNat &&& (2 ^ k - 1)) = ~~~x := by
  apply BitVec.eq_of_toNat_eq
  rw [Nat.and_two_pow_sub_one_eq_mod, BitVec.toNat_ofNat, Nat.mod_mod, BitVec.toNat_not, complement,
    Nat.mod_eq_of_lt (by have := x.isLt; omega)]

/-- The chunks of NOT's result (41_not.md R55). -/
theorem chunkSplit_bitwiseNot53 (a : Word) :
    chunkSplit (bitwiseNot53 a) = ⟨~~~(chunkSplit a).lower, ~~~(chunkSplit a).upper⟩ := by
  rw [bitwiseNot53, onChunks, chunkSplit_chunkRecombine, ChunkPair.ofNats, notChunks]
  exact congrArg₂ ChunkPair.mk (ofNat_complement_and_mask _) (ofNat_complement_and_mask _)

/-- Complementing in a wider representation and masking is complementing in the own width: no sign bit leaks (41_not.md
R55). -/
theorem not_setWidth_and_mask {m k : Nat} (x : BitVec m) (h : m ≤ k) :
    (~~~(x.setWidth k)).toNat &&& (2 ^ m - 1) = (~~~x).toNat := by
  rw [Nat.and_two_pow_sub_one_eq_mod, ← BitVec.toNat_setWidth, BitVec.setWidth_not h,
    BitVec.setWidth_setWidth_of_le x h, BitVec.setWidth_eq]

/-- Bit `i` of a complement within the width is the inverse of bit `i`. -/
theorem getLsbD_not_of_lt {k i : Nat} (x : BitVec k) (h : i < k) : (~~~x).getLsbD i = !x.getLsbD i := by
  rw [BitVec.getLsbD_not, decide_eq_true h, Bool.true_and]

/-- Settles O12: the chunks of the result are the chunks' complements, so each clause is a fact about one complement. -/
theorem notComplementsEachChunk : Obligations.NotComplementsEachChunk := by
  refine fun a b n => ⟨rfl, toWord_toNat _, ⟨bitwiseNot53 a, rfl, ?_⟩,
    fun va h => evalCall_of_rejected (orReject_failsU53 h _)⟩
  rw [chunkSplit_bitwiseNot53]
  exact ⟨BitVec.toNat_not, BitVec.toNat_not,
    fun i hi => getLsbD_not_of_lt _ (Nat.lt_succ_of_le hi),
    fun j hj => getLsbD_not_of_lt _ (Nat.lt_succ_of_le hj),
    fun k hk => ⟨not_setWidth_and_mask _ hk, not_setWidth_and_mask _ (Nat.le_trans (by decide) hk)⟩⟩

end Sys2Proof.Machine

/-! # Proofs: AND, OR and XOR (42_and_or_xor.md)

One proof for the three: they share the chunk pattern `onChunkPairs` and the validation `validateTwo`, and differ in the code
and the operator. -/

namespace Sys2Proof.Machine

/-- A masked natural fits its chunk, so the recombiner's input width loses nothing (40_chunking.md R50, 42_and_or_xor.md
R65). -/
theorem ofNat_and_mask_toNat (k x : Nat) : (BitVec.ofNat k (x &&& (2 ^ k - 1))).toNat = x &&& (2 ^ k - 1) := by
  rw [BitVec.toNat_ofNat, Nat.and_two_pow_sub_one_eq_mod, Nat.mod_mod]

theorem chunkSplit_onChunkPairs_lower_toNat (f : Nat → Nat → Nat) (a b : Word) :
    (chunkSplit (onChunkPairs f a b)).lower.toNat =
      f (chunkSplit a).lower.toNat (chunkSplit b).lower.toNat &&& Config.mask31 := by
  rw [onChunkPairs, chunkSplit_chunkRecombine]
  exact ofNat_and_mask_toNat 31 _

theorem chunkSplit_onChunkPairs_upper_toNat (f : Nat → Nat → Nat) (a b : Word) :
    (chunkSplit (onChunkPairs f a b)).upper.toNat =
      f (chunkSplit a).upper.toNat (chunkSplit b).upper.toNat &&& Config.mask22 := by
  rw [onChunkPairs, chunkSplit_chunkRecombine]
  exact ofNat_and_mask_toNat 22 _

/-- What makes an operation follow its rule: the code selects it, it answers with the operator on the pairs of chunks, and
its call checks two operands. -/
theorem pairRule_of_onChunkPairs {op : OpCode} {mk : Word → Word → Instr}
    {call : HostValue → HostValue → Call HostValue} {f : Nat → Nat → Nat}
    (hdecode : ∀ a b n, decode ⟨op, a, b, n⟩ = .ok (mk a b))
    (hrespond : ∀ a b, respond (mk a b) = .ok (onChunkPairs f a b))
    (hcall : ∀ va vb, validateCall (call va vb) = validateTwo op va vb) : Statements.PairRule op mk call f :=
  fun a b n => ⟨hdecode a b n, toWord_toNat _,
    ⟨onChunkPairs f a b, hrespond a b, chunkSplit_onChunkPairs_lower_toNat f a b,
      chunkSplit_onChunkPairs_upper_toNat f a b⟩,
    fun va vb h => evalCall_of_rejected ((hcall va vb).trans (validateTwo_rejected op h))⟩

/-- Settles O14: the three operations follow the rule by their definitions, and the three examples are computed. -/
theorem andOrXorWorkOnEachChunkPair : Obligations.AndOrXorWorkOnEachChunkPair := by
  refine ⟨?and, ?or, ?xor, by decide, by decide, by decide⟩
  case and => exact pairRule_of_onChunkPairs (fun _ _ _ => rfl) (fun _ _ => rfl) (fun _ _ => rfl)
  case or => exact pairRule_of_onChunkPairs (fun _ _ _ => rfl) (fun _ _ => rfl) (fun _ _ => rfl)
  case xor => exact pairRule_of_onChunkPairs (fun _ _ _ => rfl) (fun _ _ => rfl) (fun _ _ => rfl)

end Sys2Proof.Machine

/-! # Proofs: LSHIFT (43_lshift.md)

The chunk results are in range in every regime (R74), so the recombiner and the splitter keep them: the chunks of the
result are the regime's formulas, and the clauses on bits and sums are facts about those naturals. -/

namespace Sys2Proof.Machine

/-- An operand is read back from its chunks (40_chunking.md R48). -/
theorem toNat_eq_chunks (a : Word) :
    a.toNat = (chunkSplit a).lower.toNat + (chunkSplit a).upper.toNat * 2 ^ 31 := by
  rw [chunkSplit_lower_toNat, chunkSplit_upper_toNat, Nat.mul_comm, Nat.mod_add_div]

/-- Chunk results in range are the chunks of the recombined result (40_chunking.md R50). -/
theorem chunkSplit_onChunks_toNat {f : Nat → Nat → Nat × Nat} {a : Word} {r : Nat × Nat}
    (hf : f (chunkSplit a).lower.toNat (chunkSplit a).upper.toNat = r) (hl : r.1 < 2 ^ 31) (hu : r.2 < 2 ^ 22) :
    (chunkSplit (onChunks f a)).lower.toNat = r.1 ∧ (chunkSplit (onChunks f a)).upper.toNat = r.2 := by
  rw [onChunks, chunkSplit_chunkRecombine, hf]
  exact ⟨Nat.mod_eq_of_lt hl, Nat.mod_eq_of_lt hu⟩

theorem and_mask_lt (x k : Nat) : x &&& (2 ^ k - 1) < 2 ^ k :=
  Nat.and_lt_two_pow x (Nat.sub_one_lt (Nat.two_pow_pos k).ne')

/-- The low `m` bits moved up by `j` fit in `m + j` bits. -/
theorem and_mask_shiftLeft_lt (x : Nat) {m j k : Nat} (h : m + j = k) :
    (x &&& (2 ^ m - 1)) <<< j < 2 ^ k := by
  rw [Nat.shiftLeft_eq, ← h, Nat.pow_add]
  exact Nat.mul_lt_mul_of_pos_right (and_mask_lt x m) (Nat.two_pow_pos j)

/-! ## The formulas of the three regimes -/

theorem leftShiftChunks_of_ge {k : Nat} (l u : Nat) (h31 : 31 ≤ k) :
    leftShiftChunks k l u = (0, (l &&& (2 ^ (53 - k) - 1)) <<< (k - 31)) :=
  if_pos h31

theorem leftShiftChunks_of_middle {k : Nat} (l u : Nat) (h22 : 22 ≤ k) (h30 : k ≤ 30) :
    leftShiftChunks k l u =
      ((l &&& (2 ^ (31 - k) - 1)) <<< k, (l >>> (31 - k)) &&& Config.mask22) := by
  rw [leftShiftChunks, if_neg (by omega), if_pos h22]

theorem leftShiftChunks_of_le {k : Nat} (l u : Nat) (h21 : k ≤ 21) :
    leftShiftChunks k l u =
      ((l <<< k) &&& Config.mask31, ((u <<< k) ||| (l >>> (31 - k))) &&& Config.mask22) := by
  rw [leftShiftChunks, if_neg (by omega), if_neg (by omega)]

/-- At 31 the mask is `mask22` and nothing moves inside the upper chunk (43_lshift.md R71). -/
theorem leftShiftChunks_of_eq_31 {k : Nat} (l u : Nat) (h : k = 31) :
    leftShiftChunks k l u = (0, l &&& Config.mask22) := by
  subst h
  rfl

/-- At 52 only bit 0 of the lower chunk stays (43_lshift.md R71). -/
theorem leftShiftChunks_of_eq_52 {k : Nat} (l u : Nat) (h : k = 52) :
    leftShiftChunks k l u = (0, (l &&& 1) <<< 21) := by
  subst h
  rfl

/-- At 0 a pair of chunks is kept (43_lshift.md R73). -/
theorem leftShiftChunks_of_eq_zero {k l u : Nat} (h : k = 0) (hl : l < 2 ^ 31) (hu : u < 2 ^ 22) :
    leftShiftChunks k l u = (l, u) := by
  subst h
  have hcross : l >>> 31 = 0 := Nat.shiftRight_eq_zero l 31 hl
  rw [leftShiftChunks_of_le l u (Nat.zero_le 21), Nat.shiftLeft_zero, Nat.shiftLeft_zero, hcross, Nat.or_zero,
    Nat.and_two_pow_sub_one_eq_mod, Nat.and_two_pow_sub_one_eq_mod, Nat.mod_eq_of_lt hl, Nat.mod_eq_of_lt hu]

/-- Every regime meets the recombiner's precondition (43_lshift.md R74). -/
theorem leftShiftChunks_lt {k : Nat} (l u : Nat) (h52 : k ≤ 52) :
    (leftShiftChunks k l u).1 < 2 ^ 31 ∧ (leftShiftChunks k l u).2 < 2 ^ 22 := by
  have hregime : 31 ≤ k ∨ (22 ≤ k ∧ k ≤ 30) ∨ k ≤ 21 := by omega
  rcases hregime with h31 | ⟨h22, h30⟩ | h21
  · rw [leftShiftChunks_of_ge l u h31]
    exact ⟨Nat.two_pow_pos 31, and_mask_shiftLeft_lt l (by omega)⟩
  · rw [leftShiftChunks_of_middle l u h22 h30]
    exact ⟨and_mask_shiftLeft_lt l (by omega), and_mask_lt _ 22⟩
  · rw [leftShiftChunks_of_le l u h21]
    exact ⟨and_mask_lt _ 31, and_mask_lt _ 22⟩

/-! ## The chunks of the result -/

/-- The chunks of a left shift's result are the chunk results as computed, for a valid amount. -/
theorem chunkSplit_logicalLeftShift53_toNat {a : Word} {n : Amount} {r : Nat × Nat} (h52 : n.toNat ≤ 52)
    (hr : leftShiftChunks n.toNat (chunkSplit a).lower.toNat (chunkSplit a).upper.toNat = r) :
    (chunkSplit (logicalLeftShift53 a n)).lower.toNat = r.1 ∧
    (chunkSplit (logicalLeftShift53 a n)).upper.toNat = r.2 := by
  obtain ⟨hl, hu⟩ := leftShiftChunks_lt (chunkSplit a).lower.toNat (chunkSplit a).upper.toNat h52
  exact chunkSplit_onChunks_toNat hr (hr ▸ hl) (hr ▸ hu)

/-- At 52 bit 0 of the operand becomes bit 52, so the result is 2^52 or 0 by its parity (43_lshift.md R71). -/
theorem logicalLeftShift53_52_toNat (a : Word) {n : Amount} (h : n.toNat = 52) :
    (logicalLeftShift53 a n).toNat = if a.toNat % 2 = 1 then 2 ^ 52 else 0 := by
  obtain ⟨hlower, hupper⟩ := chunkSplit_logicalLeftShift53_toNat (a := a) h.le (leftShiftChunks_of_eq_52 _ _ h)
  have hbit : (chunkSplit a).lower.toNat &&& 1 = a.toNat % 2 := by
    rw [Nat.and_one_is_mod, chunkSplit_lower_toNat, Nat.mod_mod_of_dvd _ (by decide)]
  rw [toNat_eq_chunks, hlower, hupper, hbit]
  rcases Nat.mod_two_eq_zero_or_one a.toNat with heven | hodd
  · rw [heven]
    rfl
  · rw [hodd]
    rfl

/-- A shift by 0 keeps both chunks, so it keeps the operand (43_lshift.md R73). -/
theorem logicalLeftShift53_zero (a : Word) {n : Amount} (h : n.toNat = 0) : logicalLeftShift53 a n = a := by
  obtain ⟨hlower, hupper⟩ := chunkSplit_logicalLeftShift53_toNat (a := a) (h.trans_le (Nat.zero_le 52))
    (leftShiftChunks_of_eq_zero h (BitVec.isLt _) (BitVec.isLt _))
  apply BitVec.eq_of_toNat_eq
  rw [toNat_eq_chunks, toNat_eq_chunks a, hlower, hupper]

/-! ## Bits and sums of the formulas -/

/-- A window of `k` bits: bit `i` of `x` shifted down by `j` and masked is bit `j + i` of `x`. -/
theorem testBit_shiftRight_and_mask (x j : Nat) {i k : Nat} (h : i < k) :
    ((x >>> j) &&& (2 ^ k - 1)).testBit i = x.testBit (j + i) := by
  rw [Nat.testBit_and, Nat.testBit_shiftRight, Nat.testBit_two_pow_sub_one, decide_eq_true h, Bool.and_true]

/-- The low `k` bits vacated by a shift up are 0. -/
theorem testBit_shiftLeft_of_lt (x : Nat) {i k : Nat} (h : i < k) : (x <<< k).testBit i = false := by
  rw [Nat.testBit_shiftLeft, decide_eq_false (Nat.not_le_of_lt h), Bool.false_and]

/-- The `k` bits that cross from the lower chunk lie under those of the upper one (43_lshift.md R73). -/
theorem shiftLeft_or_crossing_eq_add {k l : Nat} (u : Nat) (hk : k ≤ 31) (hl : l < 2 ^ 31) :
    (u <<< k) ||| (l >>> (31 - k)) = (u <<< k) + (l >>> (31 - k)) := by
  have hcross : l >>> (31 - k) < 2 ^ k := by
    rw [Nat.shiftRight_eq_div_pow]
    apply Nat.div_lt_of_lt_mul
    rwa [← Nat.pow_add, Nat.sub_add_cancel hk]
  exact (Nat.shiftLeft_add_eq_or_of_lt hcross u).symm

/-- Settles O16: each regime's formulas are the chunks of the result, and the other clauses are read off the formulas. -/
theorem leftShiftChunksInEachRegime : Obligations.LeftShiftChunksInEachRegime := by
  intro a n l u w k
  refine ⟨fun h31 h52 => ?high, fun h => ?at31, fun h => ?at52, fun h22 h30 => ?middle, fun h21 => ?low,
    logicalLeftShift53_zero a⟩
  case high => exact (chunkSplit_logicalLeftShift53_toNat h52 (leftShiftChunks_of_ge l u h31)).symm
  case at31 =>
    exact (chunkSplit_logicalLeftShift53_toNat (h.trans_le (by decide)) (leftShiftChunks_of_eq_31 l u h)).2
  case at52 =>
    exact ⟨(chunkSplit_logicalLeftShift53_toNat h.le (leftShiftChunks_of_eq_52 l u h)).2, logicalLeftShift53_52_toNat a h⟩
  case middle =>
    obtain ⟨hlower, hupper⟩ :=
      chunkSplit_logicalLeftShift53_toNat (a := a) (h30.trans (by decide)) (leftShiftChunks_of_middle l u h22 h30)
    refine ⟨hupper, hlower, fun i hi => ?upperBit, fun i hi => ?lowerBit⟩
    case upperBit =>
      rw [BitVec.getLsbD, hupper]
      exact testBit_shiftRight_and_mask l (31 - k) (Nat.lt_succ_of_le hi)
    case lowerBit =>
      rw [BitVec.getLsbD, hlower]
      exact testBit_shiftLeft_of_lt _ hi
  case low =>
    obtain ⟨hlower, hupper⟩ :=
      chunkSplit_logicalLeftShift53_toNat (a := a) (h21.trans (by decide)) (leftShiftChunks_of_le l u h21)
    exact ⟨hupper, hlower, shiftLeft_or_crossing_eq_add u (h21.trans (by decide)) (BitVec.isLt _)⟩

/-! ## Invalid amounts -/

/-- Settles O21: at the ports the operation itself answers with the error; a call with a valid operand is turned away with
it in front of them. -/
theorem leftShiftRejectsInvalidAmounts : Obligations.LeftShiftRejectsInvalidAmounts := by
  have hcall : ∀ va vn : HostValue, va.validU53 = true → vn.FailsShift →
      evalCall (.lshift va vn) = some (.error .invalidShiftAmount) :=
    fun _ _ ha hn => evalCall_of_rejected (validateShift_rejected 4 ha hn)
  refine ⟨fun r hop hn => ?ports, hcall, hcall _ _ (by decide) (by decide)⟩
  case ports =>
    obtain ⟨op, a, b, n⟩ := r
    obtain rfl : op = 4 := hop
    have hinvalid : n.valid = false := decide_eq_false (Nat.not_lt_of_le hn)
    rw [eval_of_decode (i := .lshift a n) rfl, respond_lshift_invalid a hinvalid]

end Sys2Proof.Machine

/-! # Proofs: URSHIFT (44_urshift.md)

As for LSHIFT: the chunk results are in range in every regime (R84), so they are the chunks of the result. No mask cuts them
off here; the range comes from that of the operand's own chunks. -/

namespace Sys2Proof.Machine

/-! ## The bits that cross into the lower chunk -/

/-- A lower chunk shifted down by `k` leaves its top `k` bits free (44_urshift.md R82). -/
theorem shiftRight_lt_of_lower {k l : Nat} (hk : k ≤ 31) (hl : l < 2 ^ 31) : l >>> k < 2 ^ (31 - k) := by
  rw [Nat.shiftRight_eq_div_pow]
  apply Nat.div_lt_of_lt_mul
  rwa [← Nat.pow_add, Nat.add_sub_cancel' hk]

/-- What crosses from the upper chunk lies above what stays of the lower one, so the two terms do not overlap
(44_urshift.md R82, R83). -/
theorem shiftRight_or_crossing_eq_add {k l : Nat} (x : Nat) (hk : k ≤ 31) (hl : l < 2 ^ 31) :
    (l >>> k) ||| (x <<< (31 - k)) = (l >>> k) + (x <<< (31 - k)) := by
  rw [Nat.or_comm, Nat.add_comm, Nat.shiftLeft_add_eq_or_of_lt (shiftRight_lt_of_lower hk hl)]

/-- With `m` bits crossing, the new lower chunk needs those `m` and the `31 - k` that stay (44_urshift.md R82, R84). -/
theorem shiftRight_or_crossing_lt {k l x m j : Nat} (hk : k ≤ 31) (hl : l < 2 ^ 31) (hx : x < 2 ^ m)
    (hbits : m + (31 - k) = j) : (l >>> k) ||| (x <<< (31 - k)) < 2 ^ j := by
  subst hbits
  apply Nat.or_lt_two_pow
  case left =>
    exact (shiftRight_lt_of_lower hk hl).trans_le (Nat.pow_le_pow_right Nat.two_pos (Nat.le_add_left _ m))
  case right => exact Nat.shiftLeft_lt hx

/-! ## The formulas of the three regimes -/

theorem rightShiftChunks_of_ge {k : Nat} (l u : Nat) (h31 : 31 ≤ k) :
    rightShiftChunks k l u = (u >>> (k - 31), 0) :=
  if_pos h31

theorem rightShiftChunks_of_middle {k : Nat} (l u : Nat) (h22 : 22 ≤ k) (h30 : k ≤ 30) :
    rightShiftChunks k l u = ((l >>> k) ||| (u <<< (31 - k)), 0) := by
  rw [rightShiftChunks, if_neg (by omega), if_pos h22]

theorem rightShiftChunks_of_le {k : Nat} (l u : Nat) (h21 : k ≤ 21) :
    rightShiftChunks k l u = ((l >>> k) ||| ((u &&& (2 ^ k - 1)) <<< (31 - k)), u >>> k) := by
  rw [rightShiftChunks, if_neg (by omega), if_neg (by omega)]

/-- At 0 a pair of chunks is kept (44_urshift.md R83). -/
theorem rightShiftChunks_of_eq_zero {k : Nat} (l u : Nat) (h : k = 0) : rightShiftChunks k l u = (l, u) := by
  subst h
  rw [rightShiftChunks_of_le l u (Nat.zero_le 21), Nat.pow_zero, Nat.sub_self, Nat.and_zero, Nat.zero_shiftLeft,
    Nat.or_zero, Nat.shiftRight_zero, Nat.shiftRight_zero]

/-- Every regime meets the recombiner's precondition (44_urshift.md R84), at invalid amounts too. -/
theorem rightShiftChunks_lt (k : Nat) {l u : Nat} (hl : l < 2 ^ 31) (hu : u < 2 ^ 22) :
    (rightShiftChunks k l u).1 < 2 ^ 31 ∧ (rightShiftChunks k l u).2 < 2 ^ 22 := by
  have hregime : 31 ≤ k ∨ (22 ≤ k ∧ k ≤ 30) ∨ k ≤ 21 := by omega
  rcases hregime with h31 | ⟨h22, h30⟩ | h21
  · rw [rightShiftChunks_of_ge l u h31]
    exact ⟨(Nat.shiftRight_le u _).trans_lt (hu.trans (by decide)), Nat.two_pow_pos 22⟩
  · rw [rightShiftChunks_of_middle l u h22 h30]
    have hfits : 2 ^ (53 - k) ≤ 2 ^ 31 := Nat.pow_le_pow_right Nat.two_pos (by omega)
    exact ⟨(shiftRight_or_crossing_lt (by omega) hl hu (by omega)).trans_le hfits, Nat.two_pow_pos 22⟩
  · rw [rightShiftChunks_of_le l u h21]
    exact ⟨shiftRight_or_crossing_lt (by omega) hl (and_mask_lt u k) (by omega), (Nat.shiftRight_le u k).trans_lt hu⟩

/-! ## The chunks of the result -/

/-- The chunks of a right shift's result are the chunk results as computed. -/
theorem chunkSplit_logicalRightShift53_toNat {a : Word} {n : Amount} {r : Nat × Nat}
    (hr : rightShiftChunks n.toNat (chunkSplit a).lower.toNat (chunkSplit a).upper.toNat = r) :
    (chunkSplit (logicalRightShift53 a n)).lower.toNat = r.1 ∧
    (chunkSplit (logicalRightShift53 a n)).upper.toNat = r.2 := by
  obtain ⟨hl, hu⟩ := rightShiftChunks_lt n.toNat (chunkSplit a).lower.isLt (chunkSplit a).upper.isLt
  exact chunkSplit_onChunks_toNat hr (hr ▸ hl) (hr ▸ hu)

/-- The top bit of the upper chunk is bit 52 of the operand (44_urshift.md R81). -/
theorem chunkSplit_upper_shiftRight_21 (a : Word) :
    (chunkSplit a).upper.toNat >>> 21 = (a.getLsbD 52).toNat := by
  have htop : a.toNat / 2 ^ 52 < 2 := Nat.div_lt_of_lt_mul a.isLt
  rw [chunkSplit_upper_toNat, Nat.shiftRight_eq_div_pow, Nat.div_div_eq_div_mul, ← Nat.pow_add, BitVec.getLsbD,
    Nat.toNat_testBit, Nat.mod_eq_of_lt htop]

/-- A shift by 0 keeps both chunks, so it keeps the operand (44_urshift.md R83). -/
theorem logicalRightShift53_zero (a : Word) {n : Amount} (h : n.toNat = 0) : logicalRightShift53 a n = a := by
  obtain ⟨hlower, hupper⟩ := chunkSplit_logicalRightShift53_toNat (a := a) (rightShiftChunks_of_eq_zero _ _ h)
  apply BitVec.eq_of_toNat_eq
  rw [toNat_eq_chunks, toNat_eq_chunks a, hlower, hupper]

/-- Settles O18: each regime's formulas are the chunks of the result, the first one's at 31 and at 52 too; where bits cross,
they lie above those that stay. -/
theorem rightShiftChunksInEachRegime : Obligations.RightShiftChunksInEachRegime := by
  intro a n l u w k
  have hl : l < 2 ^ 31 := BitVec.isLt _
  have hhigh (h31 : 31 ≤ k) : (chunkSplit w).lower.toNat = u >>> (k - 31) ∧ (chunkSplit w).upper.toNat = 0 :=
    chunkSplit_logicalRightShift53_toNat (rightShiftChunks_of_ge l u h31)
  refine ⟨fun h31 _ => hhigh h31, fun h => ?at31, fun h => ?at52, fun h22 h30 => ?middle, fun h21 => ?low,
    logicalRightShift53_zero a⟩
  case at31 => rw [(hhigh h.ge).1, h, Nat.sub_self, Nat.shiftRight_zero]
  case at52 =>
    have htop : (chunkSplit w).lower.toNat = u >>> 21 := by rw [(hhigh (by omega)).1, h]
    exact ⟨htop, htop.trans (chunkSplit_upper_shiftRight_21 a)⟩
  case middle =>
    have h31 : k ≤ 31 := h30.trans (by decide)
    obtain ⟨hlower, hupper⟩ :=
      chunkSplit_logicalRightShift53_toNat (a := a) (rightShiftChunks_of_middle l u h22 h30)
    refine ⟨hlower, hupper, shiftRight_or_crossing_eq_add u h31 hl, ?_⟩
    rw [hlower]
    exact shiftRight_or_crossing_lt h31 hl (BitVec.isLt _) (by omega)
  case low =>
    obtain ⟨hlower, hupper⟩ := chunkSplit_logicalRightShift53_toNat (a := a) (rightShiftChunks_of_le l u h21)
    exact ⟨hlower, hupper, shiftRight_or_crossing_eq_add _ (h21.trans (by decide)) hl⟩

end Sys2Proof.Machine

/-! # Proofs: errors and the call level (60_exceptions.md)

In two parts: the one error at the ports, and what a rejection by validation says about the arguments. -/

namespace Sys2Proof.Machine

/-! ## The error at the ports -/

/-- Where an operation's response is its amount's check in front of a value, the amount alone tells the error from the
result (60_exceptions.md R91). -/
theorem eval_of_checked_amount {r : Request} {i : Instr} {v : Word} (hd : decode r = .ok i)
    (hi : respond i = if r.n.valid then .ok v else .error .invalidShiftAmount) :
    (53 ≤ r.n.toNat ∧ eval r = some (.error .invalidShiftAmount)) ∨
    (r.n.toNat < 53 ∧ ∃ v, eval r = some (.ok v)) := by
  rw [eval_of_decode hd, hi]
  by_cases hn : r.n.valid = true
  · exact .inr ⟨(amount_valid_iff r.n).1 hn, v, by rw [if_pos hn]⟩
  · exact .inl ⟨Nat.not_lt.1 (mt (amount_valid_iff r.n).2 hn), by rw [if_neg hn]⟩

/-- Both shifts check their amount in front of a value. -/
theorem eval_shift_cases {r : Request} (h4 : 4 ≤ r.op.toNat) (h5 : r.op.toNat ≤ 5) :
    (53 ≤ r.n.toNat ∧ eval r = some (.error .invalidShiftAmount)) ∨
    (r.n.toNat < 53 ∧ ∃ v, eval r = some (.ok v)) := by
  rcases decode_cases r with
    ⟨hop, -⟩ | ⟨hop, -⟩ | ⟨hop, -⟩ | ⟨hop, -⟩ | ⟨-, hd⟩ | ⟨-, hd⟩ | ⟨hop | hop, -⟩
  case inr.inr.inr.inr.inl => exact eval_of_checked_amount hd rfl
  case inr.inr.inr.inr.inr.inl => exact eval_of_checked_amount hd rfl
  all_goals simp [hop] at h4 h5

/-- Settles O30: a shift's amount decides between the error and a result, and the other four always have a result. -/
theorem definedRequestsHaveResults : Obligations.DefinedRequestsHaveResults := by
  intro r hdefined
  by_cases hshift : 4 ≤ r.op.toNat
  · rcases eval_shift_cases hshift hdefined with ⟨hn, herror⟩ | ⟨hn, hresult⟩
    · exact .inl ⟨⟨hshift, hn⟩, herror⟩
    · exact .inr ⟨fun h => hn.not_ge h.2, hresult⟩
  · exact .inr ⟨fun h => hshift h.1, eval_bitwise_has_result (by omega)⟩

/-! ## What a rejection says -/

/-- A rejection behind a check comes from the check, or from what follows a valid argument (60_exceptions.md R98). -/
theorem orReject_rejected {α : Type} {c : Checked α} {e e' : ErrorKind} {go : α → Admission}
    (h : c.orReject e go = .rejected e') :
    (c = .invalid ∧ e = e') ∨ ∃ x, c = .valid x ∧ go x = .rejected e' := by
  cases c with
  | valid x => exact .inr ⟨x, rfl, h⟩
  | invalid => exact .inl ⟨rfl, Admission.rejected.inj h⟩
  | unclassified => cases h

/-- The operand check finds fault only with a failing operand (60_exceptions.md R90, R92). -/
theorem failsU53_of_checkU53 {v : HostValue} (h : v.checkU53 = .invalid) : v.FailsU53 := by
  unfold HostValue.checkU53 at h
  split_ifs at h with hclass hvalid
  exact ⟨hclass, Bool.eq_false_of_not_eq_true hvalid⟩

/-- The operand check lets only a valid operand pass (60_exceptions.md R90). -/
theorem validU53_of_checkU53 {v : HostValue} {x : Word} (h : v.checkU53 = .valid x) : v.validU53 = true := by
  unfold HostValue.checkU53 at h
  split_ifs at h with _ hvalid
  exact hvalid

/-- The shift check finds fault only with a failing amount (60_exceptions.md R91, R92). -/
theorem failsShift_of_checkShift {v : HostValue} (h : v.checkShift = .invalid) : v.FailsShift := by
  unfold HostValue.checkShift at h
  split_ifs at h with hclass hvalid
  exact ⟨hclass, Bool.eq_false_of_not_eq_true hvalid⟩

/-- A rejection behind an operand check is for the operand, or follows a valid one. -/
theorem checkU53_orReject_rejected {v : HostValue} {e e' : ErrorKind} {go : Word → Admission}
    (h : v.checkU53.orReject e go = .rejected e') :
    (v.FailsU53 ∧ e = e') ∨ (v.validU53 = true ∧ ∃ x, go x = .rejected e') := by
  rcases orReject_rejected h with ⟨hc, he⟩ | ⟨x, hc, hgo⟩
  · exact .inl ⟨failsU53_of_checkU53 hc, he⟩
  · exact .inr ⟨validU53_of_checkU53 hc, x, hgo⟩

/-- A call of two operands is rejected only for its first failing one. -/
theorem failsU53_of_validateTwo {op : OpCode} {a b : HostValue} {e : ErrorKind}
    (h : validateTwo op a b = .rejected e) :
    e = .invalidOperand ∧ (a.FailsU53 ∨ (a.validU53 = true ∧ b.FailsU53)) := by
  rcases checkU53_orReject_rejected h with ⟨ha, rfl⟩ | ⟨ha, x, h⟩
  · exact ⟨rfl, .inl ha⟩
  · rcases checkU53_orReject_rejected h with ⟨hb, rfl⟩ | ⟨-, y, h⟩
    · exact ⟨rfl, .inr ⟨ha, hb⟩⟩
    · cases h

/-- A shift's call is rejected for its operand, or for its amount behind a valid operand. -/
theorem fails_of_validateShift {op : OpCode} {a n : HostValue} {e : ErrorKind}
    (h : validateShift op a n = .rejected e) :
    (e = .invalidOperand ∧ a.FailsU53) ∨
    (e = .invalidShiftAmount ∧ a.validU53 = true ∧ n.FailsShift) := by
  rcases checkU53_orReject_rejected h with ⟨ha, rfl⟩ | ⟨ha, x, h⟩
  · exact .inl ⟨rfl, ha⟩
  · rcases orReject_rejected h with ⟨hn, rfl⟩ | ⟨k, -, h⟩
    · exact .inr ⟨rfl, ha, failsShift_of_checkShift hn⟩
    · cases h

/-- Validation rejects a call only with the error of its first failing argument (60_exceptions.md R98). -/
theorem rejectedWith_of_validateCall {c : Call HostValue} {e : ErrorKind} (h : validateCall c = .rejected e) :
    c.RejectedWith e := by
  cases c with
  | not a =>
    rcases checkU53_orReject_rejected h with ⟨ha, rfl⟩ | ⟨-, x, h⟩
    · exact ha
    · cases h
  | and a b =>
    obtain ⟨rfl, hfails⟩ := failsU53_of_validateTwo h
    exact hfails
  | or a b =>
    obtain ⟨rfl, hfails⟩ := failsU53_of_validateTwo h
    exact hfails
  | xor a b =>
    obtain ⟨rfl, hfails⟩ := failsU53_of_validateTwo h
    exact hfails
  | lshift a n => rcases fails_of_validateShift h with ⟨rfl, hfails⟩ | ⟨rfl, hfails⟩ <;> exact hfails
  | urshift a n => rcases fails_of_validateShift h with ⟨rfl, hfails⟩ | ⟨rfl, hfails⟩ <;> exact hfails

/-- Validation turns a call away with an error exactly when that is the error of its first failing argument. -/
theorem validateCall_rejected_iff (c : Call HostValue) (e : ErrorKind) :
    validateCall c = .rejected e ↔ c.RejectedWith e :=
  ⟨rejectedWith_of_validateCall, validateCall_of_rejectedWith⟩

/-- Settles O31: the equivalence for all calls, and the spec's doubly invalid call, whose first argument fails. -/
theorem callsReportTheFirstFailure : Obligations.CallsReportTheFirstFailure :=
  ⟨validateCall_rejected_iff, (validateCall_rejected_iff _ _).2 (by decide)⟩

end Sys2Proof.Machine

/-! # Proofs: the words and codes of the operations (30_encoding.md)

The encoder and the decoder on operations, and a word read from the opcode table's bits. -/

namespace Sys2Proof.Machine

/-- Decoding an operation's request gives the operation (30_encoding.md R33, R34). -/
theorem decode_encode (i : Instr) : decode (encode i) = .ok i := by
  cases i with
  | not a => exact (Laws.EncodeDecode.not a).2
  | and a b => exact (Laws.EncodeDecode.and a b).2
  | or a b => exact (Laws.EncodeDecode.or a b).2
  | xor a b => exact (Laws.EncodeDecode.xor a b).2
  | lshift a n => exact (Laws.EncodeDecode.lshift a n).2
  | urshift a n => exact (Laws.EncodeDecode.urshift a n).2

/-- A request word is one of the numbers that write a request. -/
theorem ofNat?_toNat (w : RequestWord) : Request.ofNat? w.toNat = some (Request.ofWord w) := by
  rw [Request.ofNat?, if_pos w.isLt, BitVec.ofNat_toNat, BitVec.setWidth_eq]

/-- The table's 120 bits hold a request word whole, so both decoders find the same operation in it. -/
theorem decodeTableWord_toNat {w : RequestWord} {i : Instr} (h : decodeWord w = .ok i) :
    decodeTableWord 120 w.toNat = some i := by
  have hfits : w.toNat % 2 ^ 120 = w.toNat := Nat.mod_eq_of_lt (w.isLt.trans (by decide))
  rw [decodeWord] at h
  rw [decodeTableWord, hfits, decodeNat, ofNat?_toNat]
  simp only [h, Except.mapError]

/-- Settles O2: the ports are read back from the word, and the operation from the ports. -/
theorem requestWordOfEveryOperationDecodesToIt : Obligations.RequestWordOfEveryOperationDecodesToIt := by
  intro i
  have hword : decodeWord (encodeWord i) = .ok i := by
    rw [decodeWord, encodeWord, ofWord_toWord, decode_encode]
  exact ⟨hword, decodeTableWord_toNat hword⟩

/-- Settles O3: each answer of the decoder names the ports it keeps. -/
theorem decodingKeepsTheUsedPorts : Obligations.DecodingKeepsTheUsedPorts := by
  intro r i h
  refine ⟨encode_op_of_decode h, ?_⟩
  rcases decode_cases r with
    ⟨hop, hd⟩ | ⟨hop, hd⟩ | ⟨hop, hd⟩ | ⟨hop, hd⟩ | ⟨hop, hd⟩ | ⟨hop, hd⟩ | ⟨-, hd⟩ <;>
    cases hd.symm.trans h <;> simp [hop, encode]

/-- Settles O4: the codes by the decoder's definition, and each of the spec's words through the word decoder. -/
theorem operationCodesAndSpecWordsDecode : Obligations.OperationCodesAndSpecWordsDecode :=
  ⟨fun _ _ _ => ⟨rfl, rfl, rfl, rfl, rfl, rfl, rfl, rfl⟩, by decide, by decide, by decide, by decide, by decide, by decide⟩

end Sys2Proof.Machine

/-! # Proofs: the recombiner (40_chunking.md) -/

namespace Sys2Proof.Machine

/-- The bits of a recombined word: the lower chunk's 31 and then the upper chunk's (40_chunking.md R49). -/
theorem chunkRecombine_getLsbD (c : ChunkPair) (i : Nat) :
    (chunkRecombine c).getLsbD i = if i < 31 then c.lower.getLsbD i else c.upper.getLsbD (i - 31) := by
  rw [chunkRecombine, BitVec.getLsbD_append]

@[simp] theorem chunkRecombine_chunkSplit (a : Word) : chunkRecombine (chunkSplit a) = a :=
  BitVec.eq_of_toNat_eq ((chunkRecombine_toNat _).trans (toNat_eq_chunks a).symm)

/-- Settles O11: the values of the chunks give back the operand's value, and the recombiner's bits are its inputs'. -/
theorem recombinerUndoesSplitter : Obligations.RecombinerUndoesSplitter := by
  refine ⟨chunkRecombine_chunkSplit, fun c => ⟨chunkSplit_chunkRecombine c, fun i hi => ?lower, fun j _ => ?upper⟩,
    Function.LeftInverse.injective chunkRecombine_chunkSplit⟩
  case lower => rw [chunkRecombine_getLsbD, if_pos (Nat.lt_succ_of_le hi)]
  case upper => rw [chunkRecombine_getLsbD, if_neg (by omega), Nat.add_sub_cancel_left]

end Sys2Proof.Machine

/-! # Proofs: the units are the plain 53-bit operations (41_not.md R56, 42_and_or_xor.md R64, 43_lshift.md R75,
44_urshift.md R85)

Each unit works on chunks; here each is shown, once, to be one operation on the whole word. The statements on results, laws
and the log use these equations and no chunks. -/

namespace Sys2Proof.Machine

/-! ## NOT, AND, OR and XOR -/

/-- The recombiner appends, and complementing commutes with appending (41_not.md R56). -/
theorem bitwiseNot53_eq (a : Word) : bitwiseNot53 a = ~~~a :=
  calc bitwiseNot53 a
    _ = chunkRecombine ⟨~~~(chunkSplit a).lower, ~~~(chunkSplit a).upper⟩ := by
      rw [← chunkSplit_bitwiseNot53, chunkRecombine_chunkSplit]
    _ = ~~~chunkRecombine (chunkSplit a) := BitVec.not_append.symm
    _ = ~~~a := by rw [chunkRecombine_chunkSplit]

/-- The mask of a chunk as wide as the port takes nothing away. -/
theorem ofNat_and_mask (k x : Nat) : BitVec.ofNat k (x &&& (2 ^ k - 1)) = BitVec.ofNat k x := by
  apply BitVec.eq_of_toNat_eq
  rw [ofNat_and_mask_toNat, Nat.and_two_pow_sub_one_eq_mod, BitVec.toNat_ofNat]

/-- An operator that means `g` at every width, and commutes with appending, means `g` on the whole word (42_and_or_xor.md
R64). -/
theorem onChunkPairs_eq {f : Nat → Nat → Nat} {g : (k : Nat) → BitVec k → BitVec k → BitVec k}
    (hwidth : ∀ k (x y : BitVec k), BitVec.ofNat k (f x.toNat y.toNat) = g k x y)
    (happend : ∀ (u u' : UpperChunk) (l l' : LowerChunk), g 22 u u' ++ g 31 l l' = g 53 (u ++ l) (u' ++ l'))
    (a b : Word) : onChunkPairs f a b = g 53 a b := by
  simp only [onChunkPairs, ChunkPair.ofNats, ofNat_and_mask, hwidth]
  rw [chunkRecombine, happend]
  exact congrArg₂ (g 53) (chunkRecombine_chunkSplit a) (chunkRecombine_chunkSplit b)

theorem bitwiseAnd53_eq (a b : Word) : bitwiseAnd53 a b = a &&& b :=
  onChunkPairs_eq (g := fun _ x y => x &&& y) (fun k x y => by simp) (fun _ _ _ _ => BitVec.and_append.symm) a b

theorem bitwiseOr53_eq (a b : Word) : bitwiseOr53 a b = a ||| b :=
  onChunkPairs_eq (g := fun _ x y => x ||| y) (fun k x y => by simp) (fun _ _ _ _ => BitVec.or_append.symm) a b

theorem bitwiseXor53_eq (a b : Word) : bitwiseXor53 a b = a ^^^ b :=
  onChunkPairs_eq (g := fun _ x y => x ^^^ y) (fun k x y => by simp) (fun _ _ _ _ => BitVec.xor_append.symm) a b

/-! ## LSHIFT -/

/-- Moving up by `n` what lies under a mask is moving up and then masking `n` bits further. -/
theorem and_mask_shiftLeft (x : Nat) {m n k : Nat} (h : m + n = k) :
    (x &&& (2 ^ m - 1)) <<< n = (x <<< n) &&& (2 ^ k - 1) := by
  have hmask (i : Nat) (hi : n ≤ i) : i - n < m ↔ i < k := by omega
  apply Nat.eq_of_testBit_eq
  intro i
  simp only [Nat.testBit_shiftLeft, Nat.testBit_and, Nat.testBit_two_pow_sub_one]
  by_cases hi : n ≤ i
  · simp [hi, hmask i hi]
  · simp [hi]

/-- From 22 on the upper chunk is moved out of its 22 bits whole (43_lshift.md R72). -/
theorem shiftLeft_and_mask22 (u : Nat) {n : Nat} (h22 : 22 ≤ n) : (u <<< n) &&& Config.mask22 = 0 := by
  have hdvd : 2 ^ 22 ∣ u * 2 ^ n := (Nat.pow_dvd_pow 2 h22).trans (Nat.dvd_mul_left ..)
  rw [Nat.and_two_pow_sub_one_eq_mod, Nat.shiftLeft_eq, Nat.mod_eq_zero_of_dvd hdvd]

/-- The branch the source doubts gives what the branch below 22 gives (90_conflicts.md C1), so one formula serves all
amounts up to 30. -/
theorem leftShiftChunks_of_le_30 {k : Nat} (l u : Nat) (h30 : k ≤ 30) :
    leftShiftChunks k l u =
      ((l <<< k) &&& Config.mask31, ((u <<< k) ||| (l >>> (31 - k))) &&& Config.mask22) := by
  rcases Nat.lt_or_ge k 22 with h21 | h22
  · exact leftShiftChunks_of_le l u (Nat.le_of_lt_succ h21)
  · rw [leftShiftChunks_of_middle l u h22 h30, Nat.and_or_distrib_right, shiftLeft_and_mask22 u h22, Nat.zero_or,
      and_mask_shiftLeft l (Nat.sub_add_cancel (h30.trans (by decide)))]

/-- Settles O23: the mask of the doubted branch moves with the shift, and the upper chunk is gone. -/
theorem middleRegimeNeedsNoUpperChunk : Obligations.MiddleRegimeNeedsNoUpperChunk :=
  fun _ l u h22 h30 _ _ => ⟨leftShiftChunks_of_le_30 l u h30, shiftLeft_and_mask22 u h22⟩

/-- A word is the one whose bits its chunks have. -/
theorem eq_of_chunks_testBit {w v : Word} {r : Nat × Nat}
    (hw : (chunkSplit w).lower.toNat = r.1 ∧ (chunkSplit w).upper.toNat = r.2)
    (hv : (∀ i, i < 31 → r.1.testBit i = v.getLsbD i) ∧ (∀ j, j < 22 → r.2.testBit j = v.getLsbD (31 + j))) :
    w = v := by
  obtain ⟨hlower, hupper⟩ := hw
  rw [← chunkRecombine_chunkSplit w]
  apply BitVec.eq_of_getLsbD_eq
  intro i hi
  rw [chunkRecombine_getLsbD]
  split
  case isTrue h31 => rw [← hv.1 i h31, ← hlower, BitVec.testBit_toNat]
  case isFalse h31 =>
    obtain ⟨j, rfl⟩ := Nat.exists_eq_add_of_le (Nat.not_lt.1 h31)
    rw [← hv.2 j (by omega), ← hupper, BitVec.testBit_toNat, Nat.add_sub_cancel_left]

/-- The chunk results of LSHIFT have the bits of the whole operand moved up (43_lshift.md R75). -/
theorem leftShiftChunks_testBit (a : Word) {k : Nat} (h52 : k ≤ 52) :
    (∀ i, i < 31 → (leftShiftChunks k (chunkSplit a).lower.toNat (chunkSplit a).upper.toNat).1.testBit i =
      (a <<< k).getLsbD i) ∧
    (∀ j, j < 22 → (leftShiftChunks k (chunkSplit a).lower.toNat (chunkSplit a).upper.toNat).2.testBit j =
      (a <<< k).getLsbD (31 + j)) := by
  rcases Nat.lt_or_ge k 31 with h30 | h31
  · rw [leftShiftChunks_of_le_30 _ _ (Nat.le_of_lt_succ h30)]
    simp only [Nat.testBit_and, Nat.testBit_or, Nat.testBit_shiftLeft, Nat.testBit_shiftRight,
      Nat.testBit_two_pow_sub_one, BitVec.testBit_toNat, chunkSplit_lower_getLsbD, chunkSplit_upper_getLsbD,
      BitVec.getLsbD_shiftLeft]
    exact ⟨by grind, by grind⟩
  · rw [leftShiftChunks_of_ge _ _ h31]
    simp only [Nat.zero_testBit, Nat.testBit_and, Nat.testBit_shiftLeft, Nat.testBit_two_pow_sub_one,
      BitVec.testBit_toNat, chunkSplit_lower_getLsbD, BitVec.getLsbD_shiftLeft]
    exact ⟨by grind, by grind⟩

/-- LSHIFT moves the whole word up and drops what leaves it (43_lshift.md R75). -/
theorem logicalLeftShift53_eq (a : Word) {n : Amount} (h52 : n.toNat ≤ 52) :
    logicalLeftShift53 a n = a <<< n.toNat :=
  eq_of_chunks_testBit (chunkSplit_logicalLeftShift53_toNat h52 rfl) (leftShiftChunks_testBit a h52)

/-! ## URSHIFT -/

/-- The chunk results of URSHIFT have the bits of the whole operand moved down (44_urshift.md R85). -/
theorem rightShiftChunks_testBit (a : Word) (k : Nat) :
    (∀ i, i < 31 → (rightShiftChunks k (chunkSplit a).lower.toNat (chunkSplit a).upper.toNat).1.testBit i =
      (a >>> k).getLsbD i) ∧
    (∀ j, j < 22 → (rightShiftChunks k (chunkSplit a).lower.toNat (chunkSplit a).upper.toNat).2.testBit j =
      (a >>> k).getLsbD (31 + j)) := by
  have hregime : 31 ≤ k ∨ (22 ≤ k ∧ k ≤ 30) ∨ k ≤ 21 := by omega
  have habove (i : Nat) (hi : 53 ≤ i) : a.getLsbD i = false := BitVec.getLsbD_of_ge a i hi
  rcases hregime with h31 | ⟨h22, h30⟩ | h21
  · rw [rightShiftChunks_of_ge _ _ h31]
    simp only [Nat.zero_testBit, Nat.testBit_shiftRight, BitVec.testBit_toNat, chunkSplit_upper_getLsbD,
      BitVec.getLsbD_ushiftRight]
    exact ⟨by grind, by grind⟩
  · rw [rightShiftChunks_of_middle _ _ h22 h30]
    simp only [Nat.zero_testBit, Nat.testBit_or, Nat.testBit_shiftLeft, Nat.testBit_shiftRight, BitVec.testBit_toNat,
      chunkSplit_lower_getLsbD, chunkSplit_upper_getLsbD, BitVec.getLsbD_ushiftRight]
    exact ⟨by grind, by grind⟩
  · rw [rightShiftChunks_of_le _ _ h21]
    simp only [Nat.testBit_and, Nat.testBit_or, Nat.testBit_shiftLeft, Nat.testBit_shiftRight,
      Nat.testBit_two_pow_sub_one, BitVec.testBit_toNat, chunkSplit_lower_getLsbD, chunkSplit_upper_getLsbD,
      BitVec.getLsbD_ushiftRight]
    exact ⟨by grind, by grind⟩

/-- URSHIFT moves the whole word down, 0 filling (44_urshift.md R85). -/
theorem logicalRightShift53_eq (a : Word) (n : Amount) : logicalRightShift53 a n = a >>> n.toNat :=
  eq_of_chunks_testBit (chunkSplit_logicalRightShift53_toNat rfl) (rightShiftChunks_testBit a n.toNat)

end Sys2Proof.Machine

/-! # Proofs: what executing an operation answers (41_not.md to 44_urshift.md)

The response of every operation is its plain 53-bit meaning; the statements on results read one operation each off it. -/

namespace Sys2Proof.Machine

theorem not_eq_ofNat (a : Word) : ~~~a = BitVec.ofNat 53 (2 ^ 53 - 1 - a.toNat) := by
  rw [← BitVec.toNat_not, BitVec.ofNat_toNat, BitVec.setWidth_eq]

theorem shiftLeft_eq_ofNat (a : Word) (k : Nat) : a <<< k = BitVec.ofNat 53 (a.toNat * 2 ^ k) := by
  apply BitVec.eq_of_toNat_eq
  rw [BitVec.toNat_shiftLeft, Nat.shiftLeft_eq, BitVec.toNat_ofNat]

theorem shiftRight_eq_ofNat (a : Word) (k : Nat) : a >>> k = BitVec.ofNat 53 (a.toNat / 2 ^ k) := by
  rw [← Nat.shiftRight_eq_div_pow, ← BitVec.toNat_ushiftRight, BitVec.ofNat_toNat, BitVec.setWidth_eq]

/-- At the port the amount's check is the bound 52 (60_exceptions.md R91). -/
theorem amount_valid_iff_le (n : Amount) : n.valid = true ↔ n.toNat ≤ 52 :=
  (amount_valid_iff n).trans Nat.lt_succ_iff

/-- The block answers every operation with its plain 53-bit meaning (10_state.md R16). -/
theorem respond_eq_plainResponse (i : Instr) : respond i = plainResponse i := by
  cases i with
  | not a => rw [respond, answerNot, bitwiseNot53_eq, not_eq_ofNat, plainResponse]
  | and a b => rw [respond, answerAnd, bitwiseAnd53_eq, plainResponse]
  | or a b => rw [respond, answerOr, bitwiseOr53_eq, plainResponse]
  | xor a b => rw [respond, answerXor, bitwiseXor53_eq, plainResponse]
  | lshift a n =>
    simp only [respond, answerLshift, plainResponse, amount_valid_iff_le]
    refine ite_congr rfl (fun h52 => ?_) (fun _ => rfl)
    rw [logicalLeftShift53_eq a h52, shiftLeft_eq_ofNat]
  | urshift a n =>
    simp only [respond, answerUrshift, plainResponse, amount_valid_iff_le]
    refine ite_congr rfl (fun _ => ?_) (fun _ => rfl)
    rw [logicalRightShift53_eq, shiftRight_eq_ofNat]

/-- Executing an operation adds it to the log, answered with its plain meaning, and changes nothing else. -/
theorem exec_eq_plain (i : Instr) (s : State) :
    exec i s = .next { s with log := s.log ++ [.answered i (plainResponse i)] } := by
  rw [exec_eq_deliver, respond_eq_plainResponse, State.deliver]

/-- Settles O13: the plain meaning of NOT, and the bits of a complement. -/
theorem notAnswersTheComplement : Obligations.NotAnswersTheComplement := by
  refine fun a s => ⟨exec_eq_plain (.not a) s, fun i hi => ?_⟩
  rw [bitwiseNot53_eq, getLsbD_not_of_lt a (Nat.lt_succ_of_le hi)]

/-- Settles O15: the plain meanings of the three. -/
theorem andOrXorAnswerTheExactBits : Obligations.AndOrXorAnswerTheExactBits :=
  fun a b s => ⟨exec_eq_plain (.and a b) s, exec_eq_plain (.or a b) s, exec_eq_plain (.xor a b) s⟩

theorem plainResponse_lshift (a : Word) {n : Amount} (h52 : n.toNat ≤ 52) :
    plainResponse (.lshift a n) = .ok (BitVec.ofNat 53 (a.toNat * 2 ^ n.toNat)) :=
  if_pos h52

theorem plainResponse_urshift (a : Word) {n : Amount} (h52 : n.toNat ≤ 52) :
    plainResponse (.urshift a n) = .ok (BitVec.ofNat 53 (a.toNat / 2 ^ n.toNat)) :=
  if_pos h52

/-- Settles O17: the plain meaning of LSHIFT with a valid amount. -/
theorem leftShiftAnswersTheTruncatedProduct : Obligations.LeftShiftAnswersTheTruncatedProduct := by
  intro a n s h52
  rw [exec_eq_plain, plainResponse_lshift a h52]

/-- Settles O19: the plain meaning of URSHIFT with a valid amount. -/
theorem rightShiftAnswersTheQuotient : Obligations.RightShiftAnswersTheQuotient := by
  intro a n s h52
  rw [exec_eq_plain, plainResponse_urshift a h52]

/-- Settles O22: both shifts answer an invalid amount with the error; the call is turned away in front of the ports. -/
theorem invalidAmountsAreAnsweredWithTheError : Obligations.InvalidAmountsAreAnsweredWithTheError := by
  intro a n s h53
  have hinvalid : n.valid = false := decide_eq_false (Nat.not_lt_of_le h53)
  refine ⟨?_, ?_, fun _ _ ha hn => evalCall_of_rejected (validateShift_rejected 5 ha hn)⟩
  · rw [exec_eq_deliver, respond_lshift_invalid a hinvalid, State.deliver]
  · rw [exec_eq_deliver, respond_urshift_invalid a hinvalid, State.deliver]

/-- Settles O20: the bits of the whole word moved up and down. -/
theorem shiftsMoveEveryBit : Obligations.ShiftsMoveEveryBit := by
  intro a n h52 i hi
  rw [logicalLeftShift53_eq a h52, logicalRightShift53_eq]
  refine ⟨?left, ?right⟩
  case left =>
    rw [BitVec.getLsbD_shiftLeft, decide_eq_true (Nat.lt_succ_of_le hi), Bool.true_and, ← decide_not]
    simp only [Nat.not_lt]
  case right =>
    rw [BitVec.getLsbD_ushiftRight, Nat.add_comm]
    by_cases hin : i + n.toNat ≤ 52
    · rw [decide_eq_true hin, Bool.true_and]
    · rw [decide_eq_false hin, Bool.false_and, BitVec.getLsbD_of_ge a _ (by omega)]

end Sys2Proof.Machine

/-! # Proofs: the recombiner's precondition (40_chunking.md section 2) -/

namespace Sys2Proof.Machine

/-- Both chunk results of NOT stand under their masks (41_not.md R57). -/
theorem notChunks_lt (l u : Nat) : (notChunks l u).1 < 2 ^ 31 ∧ (notChunks l u).2 < 2 ^ 22 :=
  ⟨and_mask_lt _ 31, and_mask_lt _ 22⟩

/-- AND, OR and XOR of two numbers of `k` bits have `k` bits (42_and_or_xor.md R65). -/
theorem bitwise_lt_two_pow {x y k : Nat} (hx : x < 2 ^ k) (hy : y < 2 ^ k) :
    x &&& y < 2 ^ k ∧ x ||| y < 2 ^ k ∧ x ^^^ y < 2 ^ k :=
  ⟨Nat.and_lt_two_pow x hy, Nat.or_lt_two_pow hx hy, Nat.xor_lt_two_pow hx hy⟩

/-- Settles O24: the range of each operation's chunk results. -/
theorem chunkResultsAreInRange : Obligations.ChunkResultsAreInRange :=
  fun l _ u _ hl hl' hu hu' => ⟨notChunks_lt l u, bitwise_lt_two_pow hl hl', bitwise_lt_two_pow hu hu',
    fun n h52 => ⟨leftShiftChunks_lt l u h52, rightShiftChunks_lt n hl hu⟩⟩

end Sys2Proof.Machine

/-! # Proofs: the native datapath (40_chunking.md section 3)

Every native operator, on values it reads as numbers in range, gives the native value of the exact operator's result; so each
formula ends in the native value of its exact result, and that is read back as it is. -/

namespace Sys2Proof.Machine

/-- A native value of at most 31 bits is read back as it is: its sign bit is clear. -/
theorem native_toInt {x : Nat} (h : x < 2 ^ 31) : (Native.ofNat x).toInt = x := by
  rw [Native.ofNat, BitVec.toInt_ofNat', Int.bmod_eq_of_le (by omega) (by omega)]

@[simp] theorem native_zero_toInt : (Native.ofNat 0).toInt = 0 := rfl

@[simp] theorem native_and (x y : Nat) : Native.ofNat x &&& Native.ofNat y = Native.ofNat (x &&& y) :=
  BitVec.ofNat_and.symm

@[simp] theorem native_or (x y : Nat) : Native.ofNat x ||| Native.ofNat y = Native.ofNat (x ||| y) :=
  BitVec.ofNat_or.symm

@[simp] theorem native_xor (x y : Nat) : Native.ofNat x ^^^ Native.ofNat y = Native.ofNat (x ^^^ y) :=
  BitVec.ofNat_xor.symm

/-- A left shift that wraps keeps the exact result's low 32 bits. -/
@[simp] theorem native_shl (x k : Nat) : (Native.ofNat x).shl k = Native.ofNat (x <<< k) := by
  apply BitVec.eq_of_toNat_eq
  simp [Native.shl, Native.ofNat, Nat.shiftLeft_eq]

/-- A right shift fills with a sign that is clear. -/
theorem native_shr {x : Nat} (k : Nat) (h : x < 2 ^ 31) : (Native.ofNat x).shr k = Native.ofNat (x >>> k) := by
  have hsign : (Native.ofNat x).msb = false := by
    rw [BitVec.msb_eq_false_iff_two_mul_lt, Native.ofNat, BitVec.toNat_ofNat]
    omega
  apply BitVec.eq_of_toNat_eq
  rw [Native.shr, BitVec.sshiftRight_eq_of_msb_false hsign, BitVec.toNat_ushiftRight, Native.ofNat, Native.ofNat,
    BitVec.toNat_ofNat, BitVec.toNat_ofNat, Nat.mod_eq_of_lt (by omega),
    Nat.mod_eq_of_lt ((Nat.shiftRight_le x k).trans_lt (by omega))]

/-- The sign bits a complement sets do not pass the mask (41_not.md R55). -/
theorem native_not_and_mask {k x : Nat} (hk : k ≤ 31) (hx : x < 2 ^ k) :
    ~~~(Native.ofNat x) &&& Native.ofNat (2 ^ k - 1) = Native.ofNat (complement k x &&& (2 ^ k - 1)) := by
  have hpow : 2 ^ k < 2 ^ 32 := Nat.pow_lt_pow_right (by decide) (Nat.lt_succ_of_le hk)
  have hwide : Native.ofNat x = (BitVec.ofNat k x).setWidth 32 := by
    rw [Native.ofNat, BitVec.setWidth_ofNat_of_le_of_lt (hk.trans (by decide)) hx]
  have hcomplement : (2 ^ k - 1 - x) % 2 ^ k = 2 ^ k - 1 - x := Nat.mod_eq_of_lt (by omega)
  apply BitVec.eq_of_toNat_eq
  rw [BitVec.toNat_and, hwide, Native.ofNat, Native.ofNat, BitVec.toNat_ofNat, BitVec.toNat_ofNat,
    Nat.mod_eq_of_lt (by omega : 2 ^ k - 1 < 2 ^ 32), not_setWidth_and_mask _ (hk.trans (by decide)), BitVec.toNat_not,
    BitVec.toNat_ofNat, Nat.mod_eq_of_lt hx, Nat.and_two_pow_sub_one_eq_mod, complement, hcomplement,
    Nat.mod_eq_of_lt (by omega)]

/-- Chunk results in range are read back from their native values. -/
theorem native_results {r : Nat × Nat} (hl : r.1 < 2 ^ 31) (hu : r.2 < 2 ^ 22) :
    ((Native.ofNat r.1).toInt, (Native.ofNat r.2).toInt) = exactResults r := by
  rw [native_toInt hl, native_toInt (hu.trans (by decide)), exactResults]

/-- A pair's chunk result in its chunk's range is what the native operator and the mask leave. -/
theorem pairNative_eq {f : Native → Native → Native} {g : Nat → Nat → Nat} {k x y : Nat}
    (hf : f (Native.ofNat x) (Native.ofNat y) = Native.ofNat (g x y)) (hk : k ≤ 31) (hg : g x y < 2 ^ k) :
    pairNative f (2 ^ k - 1) x y = g x y := by
  rw [pairNative, hf, native_and, Nat.and_two_pow_sub_one_eq_mod, Nat.mod_eq_of_lt hg,
    native_toInt (hg.trans_le (Nat.pow_le_pow_right Nat.two_pos hk))]

theorem notNative_eq {l u : Nat} (hl : l < 2 ^ 31) (hu : u < 2 ^ 22) :
    notNative l u = exactResults (notChunks l u) := by
  obtain ⟨hlower, hupper⟩ := notChunks_lt l u
  rw [notNative, native_not_and_mask le_rfl hl, native_not_and_mask (by decide) hu]
  exact native_results hlower hupper

theorem leftShiftNative_eq {l u n : Nat} (hl : l < 2 ^ 31) (h52 : n ≤ 52) :
    leftShiftNative n l u = exactResults (leftShiftChunks n l u) := by
  obtain ⟨hlower, hupper⟩ := leftShiftChunks_lt l u h52
  rw [← native_results hlower hupper, leftShiftNative, leftShiftChunks]
  split_ifs <;> simp [native_shr _ hl]

theorem rightShiftNative_eq {l u n : Nat} (hl : l < 2 ^ 31) (hu : u < 2 ^ 22) :
    rightShiftNative n l u = exactResults (rightShiftChunks n l u) := by
  obtain ⟨hlower, hupper⟩ := rightShiftChunks_lt n hl hu
  rw [← native_results hlower hupper, rightShiftNative, rightShiftChunks]
  have hu' : u < 2 ^ 31 := hu.trans (by decide)
  split_ifs <;> simp [native_shr _ hl, native_shr _ hu']

/-- Settles O25: each formula's native value is that of its exact result, and the exact results are in range. -/
theorem nativeDatapathGivesTheExactChunks : Obligations.NativeDatapathGivesTheExactChunks := by
  intro l l' u u' hl hl' hu hu'
  obtain ⟨hand, hor, hxor⟩ := bitwise_lt_two_pow hl hl'
  obtain ⟨hand', hor', hxor'⟩ := bitwise_lt_two_pow hu hu'
  exact ⟨notNative_eq hl hu,
    ⟨pairNative_eq (native_and l l') le_rfl hand, pairNative_eq (native_or l l') le_rfl hor,
      pairNative_eq (native_xor l l') le_rfl hxor⟩,
    ⟨pairNative_eq (native_and u u') (by decide) hand', pairNative_eq (native_or u u') (by decide) hor',
      pairNative_eq (native_xor u u') (by decide) hxor'⟩,
    fun n h52 => ⟨leftShiftNative_eq hl h52, rightShiftNative_eq hl hu⟩⟩

end Sys2Proof.Machine

/-! # Proofs: the laws of the operations (41_not.md to 44_urshift.md)

Through the equations of the units with whole-word operations, each law is one of the library's on bit vectors, or of its
numbers. -/

namespace Sys2Proof.Machine

/-! ## NOT, AND, OR and XOR -/

/-- The largest operand is the word of all ones. -/
theorem ofNat_max53 : BitVec.ofNat 53 (2 ^ 53 - 1) = BitVec.allOnes 53 := rfl

/-- Settles O26: the library's laws of the complement. -/
theorem notObeysItsLaws : Obligations.NotObeysItsLaws := by
  rw [Obligations.NotObeysItsLaws, ofNat_max53]
  simp only [bitwiseNot53_eq, bitwiseAnd53_eq, bitwiseOr53_eq, bitwiseXor53_eq]
  refine ⟨BitVec.not_zero, fun a => ⟨BitVec.not_not, BitVec.and_not_self a, BitVec.or_not_self a, ?_,
    BitVec.xor_allOnes.symm⟩⟩
  rw [← BitVec.not_xor_right, BitVec.xor_self, BitVec.not_zero]

/-- Settles O27: the library's laws of the three. -/
theorem andOrXorObeyTheirLaws : Obligations.AndOrXorObeyTheirLaws := by
  intro a b c
  rw [Config.max53, ofNat_max53]
  simp only [bitwiseNot53_eq, bitwiseAnd53_eq, bitwiseOr53_eq, bitwiseXor53_eq]
  refine ⟨?commutative, ?idempotent, ?associative, ?identities, ?twice, BitVec.not_and⟩
  case commutative => exact ⟨BitVec.and_comm a b, BitVec.or_comm a b, BitVec.xor_comm a b⟩
  case idempotent => exact ⟨BitVec.and_self, BitVec.or_self, BitVec.xor_self⟩
  case associative => exact ⟨BitVec.and_assoc a b c, BitVec.or_assoc a b c, BitVec.xor_assoc a b c⟩
  case identities =>
    exact ⟨BitVec.and_zero, BitVec.and_allOnes, BitVec.or_zero, BitVec.or_allOnes, BitVec.xor_zero⟩
  case twice => rw [BitVec.xor_assoc, BitVec.xor_self, BitVec.xor_zero]

/-! ## Shifts -/

/-- A sum of amounts that is an amount does not wrap on the 6-bit port. -/
theorem amount_add_toNat {n1 n2 : Amount} (h : n1.toNat + n2.toNat ≤ 52) : (n1 + n2).toNat = n1.toNat + n2.toNat := by
  rw [BitVec.toNat_add, Nat.mod_eq_of_lt (by omega)]

/-- Settles O28: shifts of the whole word compose, and the sum of the amounts does not wrap. -/
theorem shiftsCompose : Obligations.ShiftsCompose := by
  intro a n1 n2 h52
  have hsum := amount_add_toNat h52
  refine ⟨?left, ?right⟩
  case left =>
    rw [logicalLeftShift53_eq a (by omega), logicalLeftShift53_eq _ (by omega), logicalLeftShift53_eq a (by omega), hsum,
      BitVec.shiftLeft_add]
  case right =>
    rw [logicalRightShift53_eq, logicalRightShift53_eq, logicalRightShift53_eq, hsum, BitVec.shiftRight_add]

/-- The value of a left shift (43_lshift.md R75). -/
theorem logicalLeftShift53_toNat (a : Word) {n : Amount} (h52 : n.toNat ≤ 52) :
    (logicalLeftShift53 a n).toNat = a.toNat * 2 ^ n.toNat % 2 ^ 53 := by
  rw [logicalLeftShift53_eq a h52, BitVec.toNat_shiftLeft, Nat.shiftLeft_eq]

/-- The value of a right shift (44_urshift.md R85). -/
theorem logicalRightShift53_toNat (a : Word) (n : Amount) :
    (logicalRightShift53 a n).toNat = a.toNat / 2 ^ n.toNat := by
  rw [logicalRightShift53_eq, BitVec.toNat_ushiftRight, Nat.shiftRight_eq_div_pow]

/-- Up and down again: the bits that left the word are lost. -/
theorem rightShift_leftShift_toNat (a : Word) {n : Amount} (h52 : n.toNat ≤ 52) :
    (logicalRightShift53 (logicalLeftShift53 a n) n).toNat = a.toNat % 2 ^ (53 - n.toNat) := by
  have hpow : 2 ^ 53 = 2 ^ (53 - n.toNat) * 2 ^ n.toNat := by
    rw [← Nat.pow_add, Nat.sub_add_cancel (h52.trans (by decide))]
  rw [logicalRightShift53_toNat, logicalLeftShift53_toNat a h52, hpow, Nat.mul_mod_mul_right,
    Nat.mul_div_cancel _ (Nat.two_pow_pos _)]

/-- Down and up again: the bits below the amount are cleared, and none leaves the word. -/
theorem leftShift_rightShift_toNat (a : Word) {n : Amount} (h52 : n.toNat ≤ 52) :
    (logicalLeftShift53 (logicalRightShift53 a n) n).toNat = a.toNat - a.toNat % 2 ^ n.toNat := by
  rw [logicalLeftShift53_toNat _ h52, logicalRightShift53_toNat, Nat.div_mul_self_eq_mod_sub_self]
  exact Nat.mod_eq_of_lt ((Nat.sub_le _ _).trans_lt a.isLt)

/-- A right shift leaves nothing exactly of an operand below the weight of the lowest bit kept. -/
theorem logicalRightShift53_eq_zero_iff (a : Word) (n : Amount) : logicalRightShift53 a n = 0 ↔ a.toNat < 2 ^ n.toNat := by
  rw [← BitVec.toNat_inj, logicalRightShift53_toNat, BitVec.ofNat_eq_ofNat, BitVec.toNat_zero,
    Nat.div_eq_zero_iff_lt (Nat.two_pow_pos _)]

/-- Settles O29: the values of the two shifts, and shifts by 0. -/
theorem shiftsThereAndBack : Obligations.ShiftsThereAndBack := by
  refine fun a n h52 => ⟨rightShift_leftShift_toNat a h52, leftShift_rightShift_toNat a h52,
    logicalRightShift53_eq_zero_iff a n, ?zero, ?nowhere⟩
  case zero => rw [logicalLeftShift53_eq _ h52, BitVec.ofNat_eq_ofNat, BitVec.zero_shiftLeft]
  case nowhere => rw [logicalRightShift53_zero _ rfl, logicalLeftShift53_zero _ rfl]

end Sys2Proof.Machine

/-! # Proofs: the step on a line of each kind (20_memory.md section 4, 70_reset_and_hazards.md section 4)

What is fetched from a line, both ways: what a line that is given leads to, and what a fetched thing says of its line. -/

namespace Sys2Proof.Machine

/-! ## From the line to the step -/

theorem fetch_of_pending {s : State} {l : HostLine} {rest : List HostLine} (h : s.pending = l :: rest) :
    fetch s = fetchLine s l := by
  rw [fetch, h]

theorem advance_of_pending {s : State} {l : HostLine} {rest : List HostLine} (h : s.pending = l :: rest) :
    s.advance = { s with pending := rest } := by
  rw [State.advance, h, List.tail_cons]

theorem step_of_request {s : State} {r : Request} {i : Instr} (hf : fetch s = .request r) (hd : decode r = .ok i) :
    step s = exec i s.advance := by
  simp only [step, hf, hd]

theorem step_of_reserved {s : State} {r : Request} {op : OpCode} (hf : fetch s = .request r)
    (hd : decode r = .error (.reservedOp op)) : step s = .refused (.reservedOp op) := by
  simp only [step, hf, hd]

theorem step_of_rejected {s : State} {c : Call HostValue} {e : ErrorKind} (hf : fetch s = .rejected c e) :
    step s = .next (s.advance.rejectCall c e) := by
  simp only [step, hf]

theorem step_of_unclassified {s : State} (hf : fetch s = .unclassified) : step s = .refused .unclassifiedArgument := by
  simp only [step, hf]

/-- A line whose values are there drives the ports with them. -/
theorem fetchLine_ports {s : State} {a b : Source} {x y : Word} (op : OpCode) (n : Amount)
    (ha : readSource s a = .ok x) (hb : readSource s b = .ok y) :
    fetchLine s (.ports op a b n) = .request ⟨op, x, y, n⟩ := by
  simp only [fetchLine, ha, hb, both]

/-- A call whose arguments are there is validated. -/
theorem fetchLine_call {s : State} {c : Call CallArg} {c' : Call HostValue} (h : readCall s c = .ok c') :
    fetchLine s (.call c) = fetchCall c' := by
  simp only [fetchLine, h]

/-- Settles O33: the line is fetched as the request of its values. -/
theorem stepRunsThePresentedOperation : Obligations.StepRunsThePresentedOperation := by
  intro s op a b n rest x y i hp ha hb hd
  rw [step_of_request ((fetch_of_pending hp).trans (fetchLine_ports op n ha hb)) hd, advance_of_pending hp]

/-- Settles O6: the line is fetched as a request the decoder rejects. -/
theorem reservedCodesStopTheStep : Obligations.ReservedCodesStopTheStep := by
  intro s op a b n rest x y hop hp ha hb
  exact step_of_reserved ((fetch_of_pending hp).trans (fetchLine_ports op n ha hb)) ((decode_error_iff _).2 hop)

/-! ## Calls that cannot be classified -/

/-- A call cannot be classified behind an operand check if its operand cannot, or if what follows a valid one cannot
(60_exceptions.md R92, R98). -/
theorem checkU53_orReject_unclassified_iff (v : HostValue) (e : ErrorKind) (go : Word → Admission) :
    v.checkU53.orReject e go = .unclassified ↔
      v = .unclassified ∨ (v.validU53 = true ∧ go (v.toPort 53) = .unclassified) := by
  by_cases hclass : v = .unclassified
  · subst hclass
    exact iff_of_true rfl (.inl rfl)
  · cases hvalid : v.validU53 with
    | true => simp [checkU53_valid hvalid, Checked.orReject, hclass]
    | false => simp [checkU53_invalid hclass hvalid, Checked.orReject, hclass]

/-- An amount that ends a call's validation unclassified is itself unclassified. -/
theorem checkShift_orReject_unclassified_iff (v : HostValue) (e : ErrorKind) {go : Amount → Admission}
    (hgo : ∀ k, go k ≠ .unclassified) : v.checkShift.orReject e go = .unclassified ↔ v = .unclassified := by
  by_cases hclass : v = .unclassified
  · subst hclass
    exact iff_of_true rfl rfl
  · cases hvalid : v.validShift with
    | true => simp [checkShift_valid hvalid, Checked.orReject, hclass, hgo]
    | false => simp [checkShift_invalid hclass hvalid, Checked.orReject, hclass]

theorem validateTwo_unclassified_iff (op : OpCode) (a b : HostValue) :
    validateTwo op a b = .unclassified ↔ a = .unclassified ∨ (a.validU53 = true ∧ b = .unclassified) := by
  rw [validateTwo, checkU53_orReject_unclassified_iff, checkU53_orReject_unclassified_iff]
  simp

theorem validateShift_unclassified_iff (op : OpCode) (a n : HostValue) :
    validateShift op a n = .unclassified ↔ a = .unclassified ∨ (a.validU53 = true ∧ n = .unclassified) := by
  have hrequest (k : Amount) : Admission.request ⟨op, a.toPort 53, 0, k⟩ ≠ .unclassified := nofun
  rw [validateShift, checkU53_orReject_unclassified_iff, checkShift_orReject_unclassified_iff _ _ hrequest]

/-- Validation gives no answer exactly where the first argument that is not valid cannot be classified
(70_reset_and_hazards.md R118). -/
theorem validateCall_unclassified_iff (c : Call HostValue) : validateCall c = .unclassified ↔ c.Unclassifiable := by
  cases c with
  | not a => rw [validateCall, checkU53_orReject_unclassified_iff]; simp
  | and a b => exact validateTwo_unclassified_iff 1 a b
  | or a b => exact validateTwo_unclassified_iff 2 a b
  | xor a b => exact validateTwo_unclassified_iff 3 a b
  | lshift a n => exact validateShift_unclassified_iff 4 a n
  | urshift a n => exact validateShift_unclassified_iff 5 a n

/-- Settles O34: what validation makes of the call is what is fetched, and each is one kind of step. -/
theorem stepRunsThePresentedCall : Obligations.StepRunsThePresentedCall := by
  intro s c c' rest hp hc
  have hfetch : fetch s = fetchCall c' := (fetch_of_pending hp).trans (fetchLine_call hc)
  rw [fetchCall] at hfetch
  refine ⟨fun r i hv hd => ?request, fun e hv => ?rejected, fun hv => ?unclassified, validateCall_unclassified_iff c'⟩
  case request =>
    rw [hv] at hfetch
    rw [step_of_request hfetch hd, advance_of_pending hp]
  case rejected =>
    rw [hv] at hfetch
    rw [step_of_rejected hfetch, advance_of_pending hp, State.rejectCall]
  case unclassified =>
    rw [hv] at hfetch
    exact step_of_unclassified hfetch

end Sys2Proof.Machine

/-! # Proofs: the log (10_state.md section 7, 20_memory.md section 4)

What a step can add to the log: the statements go through the three cases of a step that answers. -/

namespace Sys2Proof.Machine

/-- Settles O36: the log is empty. -/
theorem resetLogIsRight : Obligations.ResetLogIsRight :=
  fun _ h => absurd h List.not_mem_nil

/-- One more right exchange keeps the log right. -/
theorem inv_of_log_append {s t : State} {x : Exchange} (hs : s.Inv) (ht : t.log = s.log ++ [x]) (hx : x.Right) :
    t.Inv := by
  intro y hy
  rw [ht, List.mem_append, List.mem_singleton] at hy
  rcases hy with hy | rfl
  · exact hs y hy
  · exact hx

/-- Settles O35: a step adds nothing, an operation with its plain meaning, or a call with the error of its first failing
argument. -/
theorem everyStepKeepsTheLogRight : Obligations.EveryStepKeepsTheLogRight := by
  intro s t hs hstep
  rcases step_next_cases hstep with ⟨-, rfl⟩ | ⟨r, i, -, -, rfl⟩ | ⟨c, e, hf, rfl⟩
  · exact hs
  · exact inv_of_log_append hs rfl (respond_eq_plainResponse i)
  · exact inv_of_log_append hs rfl (rejectedWith_of_validateCall (fetch_rejected hf))

/-- Settles O37: the same three cases; something is fetched exactly where a line is pending. -/
theorem stepOnlyAddsOneExchange : Obligations.StepOnlyAddsOneExchange := by
  intro s t hstep
  have hpending (h : fetch s ≠ .idle) : s.pending ≠ [] := mt (fetch_idle_iff s).2 h
  rcases step_next_cases hstep with ⟨hf, rfl⟩ | ⟨r, i, hf, -, rfl⟩ | ⟨c, e, hf, rfl⟩
  · exact .inl ⟨(fetch_idle_iff _).1 hf, rfl⟩
  · exact .inr ⟨hpending (by simp [hf]), _, rfl⟩
  · exact .inr ⟨hpending (by simp [hf]), _, rfl⟩

end Sys2Proof.Machine

/-! # Proofs: requests one after another (10_state.md section 7, 20_memory.md section 5, 60_exceptions.md section 6) -/

namespace Sys2Proof.Machine

/-- Where a request has a response, the decoder gives it an operation with that response. -/
theorem exists_decode_of_eval {r : Request} {resp : Response} (h : eval r = some resp) :
    ∃ i, decode r = .ok i ∧ respond i = resp := by
  unfold eval at h
  split at h
  case h_1 i hd => exact ⟨i, hd, Option.some.inj h⟩
  case h_2 => cases h

/-- A presented request is answered with the response of its operation, whatever the log and the later lines. -/
theorem step_of_line {s : State} {r : Request} {i : Instr} {rest : List HostLine} (hp : s.pending = r.line :: rest)
    (hd : decode r = .ok i) : step s = .next { pending := rest, log := s.log ++ [.answered i (respond i)] } := by
  have hfetch : fetch s = .request r := fetch_of_pending hp
  rw [step_of_request hfetch hd, exec_eq_deliver, advance_of_pending hp, State.deliver]

/-- Settles O38: the operation is the one the request decodes to. -/
theorem responseDependsOnTheRequestAlone : Obligations.ResponseDependsOnTheRequestAlone := by
  intro r resp h
  obtain ⟨i, hd, rfl⟩ := exists_decode_of_eval h
  exact ⟨i, fun s rest hp => step_of_line hp hd⟩

/-- The step of a presented request, as the host sees it: the line is taken and the response is there. -/
theorem exists_step_of_eval {s : State} {r : Request} {resp : Response} {rest : List HostLine}
    (hp : s.pending = r.line :: rest) (h : eval r = some resp) :
    ∃ t, step s = .next t ∧ t.pending = rest ∧ t.responses = s.responses ++ [resp] := by
  obtain ⟨i, hd, rfl⟩ := exists_decode_of_eval h
  refine ⟨_, step_of_line hp hd, rfl, ?_⟩
  simp [State.responses]

/-- Settles O40: three presented requests. -/
theorem theBlockAnswersOnAfterAnError : Obligations.TheBlockAnswersOnAfterAnError := by
  intro s r r' e resp h h'
  obtain ⟨t, ht, htp, htr⟩ := exists_step_of_eval (present_pending r ((s.present r').present r)) h
  obtain ⟨u, hu, hup, hur⟩ := exists_step_of_eval htp h
  obtain ⟨v, hv, -, hvr⟩ := exists_step_of_eval hup h'
  refine ⟨t, u, v, ht, hu, hv, ?_⟩
  rw [hvr, hur, htr]
  simp [State.responses]

/-- A run of one step more. -/
theorem run_succ_of_step {s t : State} (k : Nat) (h : step s = .next t) :
    Host.Core.run Sys2Proof.core (k + 1) s = Host.Core.run Sys2Proof.core k t := by
  have hcore : Sys2Proof.core.step s = .next t := h
  simp only [Host.Core.run, hcore]

/-- A request with a defined code has a response. -/
theorem exists_eval_of_wellFormed {r : Request} (h : r.wellFormed = true) : ∃ resp, eval r = some resp := by
  rcases definedRequestsHaveResults r (of_decide_eq_true h) with ⟨-, he⟩ | ⟨-, v, he⟩
  · exact ⟨_, he⟩
  · exact ⟨_, he⟩

/-- Settles O39, by induction on the requests: the first is answered, and the others are pending in the next state. -/
theorem requestsDoNotInteract : Obligations.RequestsDoNotInteract := by
  intro rs
  induction rs with
  | nil => exact fun s _ hp => ⟨s, rfl, hp, by simp⟩
  | cons r rs ih =>
    intro s hdefined hp
    rw [List.forall_mem_cons] at hdefined
    obtain ⟨resp, he⟩ := exists_eval_of_wellFormed hdefined.1
    obtain ⟨u, hu, hup, hur⟩ := exists_step_of_eval hp he
    obtain ⟨t, ht, htp, htr⟩ := ih u hdefined.2 hup
    refine ⟨t, (run_succ_of_step _ hu).trans ht, htp, ?_⟩
    rw [htr, hur]
    simp [he]

end Sys2Proof.Machine

/-! # Proofs: why a step stops (70_reset_and_hazards.md section 4)

From the stop back to the line: a stop names what was fetched, and what was fetched says what the line reads. -/

namespace Sys2Proof.Machine

/-! ## Reading a line's sources and arguments -/

theorem both_ok {α β γ : Type} {f : α → β → γ} {x : Except Nat α} {y : Except Nat β} {z : γ} (h : both f x y = .ok z) :
    ∃ u v, x = .ok u ∧ y = .ok v ∧ z = f u v := by
  cases x with
  | error k => cases h
  | ok u =>
    cases y with
    | error k => cases h
    | ok v => exact ⟨u, v, rfl, rfl, (Except.ok.inj h).symm⟩

theorem both_error {α β γ : Type} {f : α → β → γ} {x : Except Nat α} {y : Except Nat β} {k : Nat}
    (h : both f x y = .error k) : x = .error k ∨ y = .error k := by
  cases x with
  | error j => exact .inl (congrArg _ (Except.error.inj h))
  | ok u =>
    cases y with
    | error j => exact .inr (congrArg _ (Except.error.inj h))
    | ok v => cases h

/-- A source has no pattern only where the exchange it reads has no result. -/
theorem readSource_error {s : State} {a : Source} {k : Nat} (h : readSource s a = .error k) :
    k ∈ a.reads ∧ s.resultOf k = none := by
  cases a with
  | pattern v => cases h
  | result j =>
    rw [readSource] at h
    split at h
    case h_1 => cases h
    case h_2 hnone =>
      obtain rfl := Except.error.inj h
      exact ⟨List.mem_singleton_self _, hnone⟩

/-- An argument has no value only where the exchange it reads has no result. -/
theorem readArg_error {s : State} {x : CallArg} {k : Nat} (h : readArg s x = .error k) :
    k ∈ x.reads ∧ s.resultOf k = none := by
  cases x with
  | value v => cases h
  | result j =>
    rw [readArg] at h
    split at h
    case h_1 => cases h
    case h_2 hnone =>
      obtain rfl := Except.error.inj h
      exact ⟨List.mem_singleton_self _, hnone⟩

/-- A result is an integer, so only a written value can be unclassified. -/
theorem readArg_unclassified {s : State} {x : CallArg} (h : readArg s x = .ok .unclassified) :
    x = .value .unclassified := by
  cases x with
  | value v => rw [Except.ok.inj h]
  | result j =>
    rw [readArg] at h
    split at h
    case h_1 => cases Except.ok.inj h
    case h_2 => cases h

/-- A call that cannot be read has an argument that cannot. -/
theorem readCall_error {s : State} {c : Call CallArg} {k : Nat} (h : readCall s c = .error k) :
    ∃ x ∈ c.args, readArg s x = .error k := by
  have hpair {f : HostValue → HostValue → Call HostValue} {a b : CallArg}
      (h : both f (readArg s a) (readArg s b) = .error k) : ∃ x ∈ [a, b], readArg s x = .error k := by
    rcases both_error h with ha | hb
    · exact ⟨a, by simp, ha⟩
    · exact ⟨b, by simp, hb⟩
  cases c with
  | not a =>
    cases ha : readArg s a with
    | error j =>
      rw [readCall, ha] at h
      exact ⟨a, List.mem_singleton_self a, ha.trans (congrArg _ (Except.error.inj h))⟩
    | ok v =>
      rw [readCall, ha] at h
      cases h
  | and a b => exact hpair h
  | or a b => exact hpair h
  | xor a b => exact hpair h
  | lshift a n => exact hpair h
  | urshift a n => exact hpair h

/-- Each argument of a call that is read is read from one of its arguments. -/
theorem readCall_ok {s : State} {c : Call CallArg} {c' : Call HostValue} (h : readCall s c = .ok c') {v : HostValue}
    (hv : v ∈ c'.args) : ∃ x ∈ c.args, readArg s x = .ok v := by
  have hpair {x y : CallArg} {u w : HostValue} (hx : readArg s x = .ok u) (hy : readArg s y = .ok w)
      (hv : v ∈ [u, w]) : ∃ z ∈ [x, y], readArg s z = .ok v := by
    rw [List.mem_pair] at hv
    rcases hv with rfl | rfl
    · exact ⟨x, by simp, hx⟩
    · exact ⟨y, by simp, hy⟩
  cases c with
  | not a =>
    cases ha : readArg s a with
    | error j =>
      rw [readCall, ha] at h
      cases h
    | ok u =>
      rw [readCall, ha] at h
      obtain rfl := Except.ok.inj h
      obtain rfl := List.mem_singleton.1 hv
      exact ⟨a, List.mem_singleton_self a, ha⟩
  | and a b =>
    obtain ⟨u, w, hx, hy, rfl⟩ := both_ok h
    exact hpair hx hy hv
  | or a b =>
    obtain ⟨u, w, hx, hy, rfl⟩ := both_ok h
    exact hpair hx hy hv
  | xor a b =>
    obtain ⟨u, w, hx, hy, rfl⟩ := both_ok h
    exact hpair hx hy hv
  | lshift a n =>
    obtain ⟨u, w, hx, hy, rfl⟩ := both_ok h
    exact hpair hx hy hv
  | urshift a n =>
    obtain ⟨u, w, hx, hy, rfl⟩ := both_ok h
    exact hpair hx hy hv

/-! ## From what is fetched to the line -/

/-- A request behind a check is what a valid argument leads to. -/
theorem orReject_request {α : Type} {c : Checked α} {e : ErrorKind} {go : α → Admission} {r : Request}
    (h : c.orReject e go = .request r) : ∃ x, go x = .request r := by
  cases c with
  | valid x => exact ⟨x, h⟩
  | invalid => cases h
  | unclassified => cases h

theorem validateTwo_request {op : OpCode} {a b : HostValue} {r : Request} (h : validateTwo op a b = .request r) :
    r.op = op := by
  obtain ⟨x, h⟩ := orReject_request h
  obtain ⟨y, h⟩ := orReject_request h
  cases h
  rfl

theorem validateShift_request {op : OpCode} {a n : HostValue} {r : Request} (h : validateShift op a n = .request r) :
    r.op = op := by
  obtain ⟨x, h⟩ := orReject_request h
  obtain ⟨k, h⟩ := orReject_request h
  cases h
  rfl

/-- A call's request has a defined code. -/
theorem validateCall_request {c : Call HostValue} {r : Request} (h : validateCall c = .request r) :
    r.op.toNat ≤ 5 := by
  cases c with
  | not a =>
    obtain ⟨x, h⟩ := orReject_request h
    cases h
    exact Nat.zero_le 5
  | and a b => simp [validateTwo_request h]
  | or a b => simp [validateTwo_request h]
  | xor a b => simp [validateTwo_request h]
  | lshift a n => simp [validateShift_request h]
  | urshift a n => simp [validateShift_request h]

/-- Some argument of a call that cannot be classified cannot be. -/
theorem unclassified_mem_args {c : Call HostValue} (h : c.Unclassifiable) : HostValue.unclassified ∈ c.args := by
  have hpair {a b : HostValue} (h : a = .unclassified ∨ (a.validU53 = true ∧ b = .unclassified)) :
      HostValue.unclassified ∈ [a, b] := by
    rcases h with rfl | ⟨-, rfl⟩ <;> simp
  cases c with
  | not a => exact List.mem_singleton.2 (Eq.symm h)
  | and a b => exact hpair h
  | or a b => exact hpair h
  | xor a b => exact hpair h
  | lshift a n => exact hpair h
  | urshift a n => exact hpair h

/-- All that can be fetched from a line that drives the ports. -/
theorem fetchLine_ports_cases (s : State) (op : OpCode) (a b : Source) (n : Amount) :
    (∃ k, (readSource s a = .error k ∨ readSource s b = .error k) ∧ fetchLine s (.ports op a b n) = .noResult k) ∨
    ∃ x y, fetchLine s (.ports op a b n) = .request ⟨op, x, y, n⟩ := by
  rw [fetchLine]
  split
  case h_1 r h =>
    obtain ⟨x, y, -, -, rfl⟩ := both_ok h
    exact .inr ⟨x, y, rfl⟩
  case h_2 k h => exact .inl ⟨k, both_error h, rfl⟩

/-- All that can be fetched from a call. -/
theorem fetchLine_call_cases (s : State) (c : Call CallArg) :
    (∃ k, readCall s c = .error k ∧ fetchLine s (.call c) = .noResult k) ∨
    ∃ c', readCall s c = .ok c' ∧
      ((∃ r, validateCall c' = .request r ∧ fetchLine s (.call c) = .request r) ∨
        (∃ e, fetchLine s (.call c) = .rejected c' e) ∨
        (c'.Unclassifiable ∧ fetchLine s (.call c) = .unclassified)) := by
  cases hc : readCall s c with
  | error k => exact .inl ⟨k, rfl, by simp only [fetchLine, hc]⟩
  | ok c' =>
    refine .inr ⟨c', rfl, ?_⟩
    rw [fetchLine_call hc, fetchCall]
    cases hv : validateCall c' with
    | request r => exact .inl ⟨r, rfl, rfl⟩
    | rejected e => exact .inr (.inl ⟨e, rfl⟩)
    | unclassified => exact .inr (.inr ⟨(validateCall_unclassified_iff c').1 hv, rfl⟩)

/-- Something is fetched only from a line. -/
theorem exists_line_of_fetch {s : State} {f : Fetched} (h : fetch s = f) (hf : f ≠ .idle) :
    ∃ l rest, s.pending = l :: rest ∧ fetchLine s l = f := by
  cases hp : s.pending with
  | nil => exact absurd (h.symm.trans ((fetch_idle_iff s).2 hp)) hf
  | cons l rest => exact ⟨l, rest, rfl, (fetch_of_pending hp).symm.trans h⟩

/-- A line that cannot be presented reads an exchange with no result (60_exceptions.md R105). -/
theorem fetchLine_noResult {s : State} {l : HostLine} {k : Nat} (h : fetchLine s l = .noResult k) :
    k ∈ l.reads ∧ s.resultOf k = none := by
  cases l with
  | ports op a b n =>
    rcases fetchLine_ports_cases s op a b n with ⟨j, hread, hf⟩ | ⟨x, y, hf⟩
    · cases hf.symm.trans h
      rcases hread with ha | hb
      · exact ⟨List.mem_append_left _ (readSource_error ha).1, (readSource_error ha).2⟩
      · exact ⟨List.mem_append_right _ (readSource_error hb).1, (readSource_error hb).2⟩
    · cases hf.symm.trans h
  | call c =>
    rcases fetchLine_call_cases s c with ⟨j, hread, hf⟩ | ⟨c', -, ⟨r, -, hf⟩ | ⟨e, hf⟩ | ⟨-, hf⟩⟩ <;>
      cases hf.symm.trans h
    obtain ⟨x, hx, hread⟩ := readCall_error hread
    exact ⟨List.mem_flatMap.2 ⟨x, hx, (readArg_error hread).1⟩, (readArg_error hread).2⟩

/-- A request that the decoder rejects was driven on the ports with that code: no call makes one. -/
theorem fetchLine_reserved {s : State} {l : HostLine} {r : Request} {op : OpCode} (h : fetchLine s l = .request r)
    (hd : decode r = .error (.reservedOp op)) : ∃ a b n, l = .ports op a b n ∧ 6 ≤ op.toNat := by
  have hreserved : r.op = op ∧ 6 ≤ r.op.toNat := by
    rcases decode_cases r with ⟨-, hd'⟩ | ⟨-, hd'⟩ | ⟨-, hd'⟩ | ⟨-, hd'⟩ | ⟨-, hd'⟩ | ⟨-, hd'⟩ | ⟨hop, hd'⟩ <;>
      cases hd'.symm.trans hd
    exact ⟨rfl, by rcases hop with hop | hop <;> simp [hop]⟩
  obtain ⟨rfl, hop⟩ := hreserved
  cases l with
  | ports op a b n =>
    rcases fetchLine_ports_cases s op a b n with ⟨j, -, hf⟩ | ⟨x, y, hf⟩ <;> cases hf.symm.trans h
    exact ⟨a, b, n, rfl, hop⟩
  | call c =>
    rcases fetchLine_call_cases s c with ⟨j, -, hf⟩ | ⟨c', -, ⟨r', hv, hf⟩ | ⟨e, hf⟩ | ⟨-, hf⟩⟩ <;>
      cases hf.symm.trans h
    exact absurd (validateCall_request hv) (Nat.not_le_of_lt hop)

/-- What cannot be classified was written as an argument of a call. -/
theorem fetchLine_unclassified {s : State} {l : HostLine} (h : fetchLine s l = .unclassified) :
    ∃ c, l = .call c ∧ CallArg.value .unclassified ∈ c.args := by
  cases l with
  | ports op a b n =>
    rcases fetchLine_ports_cases s op a b n with ⟨j, -, hf⟩ | ⟨x, y, hf⟩ <;> cases hf.symm.trans h
  | call c =>
    rcases fetchLine_call_cases s c with ⟨j, -, hf⟩ | ⟨c', hread, ⟨r, -, hf⟩ | ⟨e, hf⟩ | ⟨hclass, hf⟩⟩ <;>
      cases hf.symm.trans h
    obtain ⟨x, hx, hv⟩ := readCall_ok hread (unclassified_mem_args hclass)
    exact ⟨c, rfl, readArg_unclassified hv ▸ hx⟩

/-! ## From the stop to what is fetched -/

theorem step_fault {s : State} {f : Fault} (h : step s = .fault f) : ∃ k, f = .noResult k ∧ fetch s = .noResult k := by
  unfold step at h
  split at h
  case h_1 => cases h
  case h_2 =>
    split at h
    case h_1 => cases (exec_eq_deliver _ _).symm.trans h
    case h_2 => cases h
  case h_3 => cases h
  case h_4 => cases h
  case h_5 k hf => exact ⟨k, (Host.Outcome.fault.inj h).symm, hf⟩

theorem step_refused {s : State} {q : Refusal} (h : step s = .refused q) :
    (∃ r op, fetch s = .request r ∧ decode r = .error (.reservedOp op) ∧ q = .reservedOp op) ∨
    (fetch s = .unclassified ∧ q = .unclassifiedArgument) := by
  unfold step at h
  split at h
  case h_1 => cases h
  case h_2 r hf =>
    split at h
    case h_1 => cases (exec_eq_deliver _ _).symm.trans h
    case h_2 op hd => exact .inl ⟨r, op, hf, hd, (Host.Outcome.refused.inj h).symm⟩
  case h_3 => cases h
  case h_4 hf => exact .inr ⟨hf, (Host.Outcome.refused.inj h).symm⟩
  case h_5 => cases h

/-- Settles O42: each stop comes from what was fetched, and that from the line. -/
theorem stepStopsOnlyForTheHost : Obligations.StepStopsOnlyForTheHost := by
  refine fun s => ⟨fun f h => ?fault, fun q h => ?refused⟩
  case fault =>
    obtain ⟨k, rfl, hf⟩ := step_fault h
    obtain ⟨l, rest, hp, hl⟩ := exists_line_of_fetch hf nofun
    exact ⟨l, rest, k, hp, rfl, fetchLine_noResult hl⟩
  case refused =>
    rcases step_refused h with ⟨r, op, hf, hd, rfl⟩ | ⟨hf, rfl⟩
    · obtain ⟨l, rest, hp, hl⟩ := exists_line_of_fetch hf nofun
      obtain ⟨a, b, n, rfl, hop⟩ := fetchLine_reserved hl hd
      exact ⟨_, rest, hp, .inl ⟨op, a, b, n, rfl, hop, rfl⟩⟩
    · obtain ⟨l, rest, hp, hl⟩ := exists_line_of_fetch hf nofun
      obtain ⟨c, rfl, hc⟩ := fetchLine_unclassified hl
      exact ⟨_, rest, hp, .inr ⟨c, rfl, hc, rfl⟩⟩

/-- A well-formed line is neither a reserved code nor a call with an argument that cannot be classified. -/
theorem wellFormed_ports_le {k : Nat} {op : OpCode} {a b : Source} {n : Amount}
    (h : (HostLine.ports op a b n).wellFormed k = true) : op.toNat ≤ 5 :=
  of_decide_eq_true (Bool.and_elim_right h)

theorem wellFormed_call_classified {k : Nat} {c : Call CallArg} (h : (HostLine.call c).wellFormed k = true) :
    CallArg.value .unclassified ∉ c.args := fun hmem =>
  of_decide_eq_true (List.all_eq_true.1 (Bool.and_elim_right h) _ hmem) rfl

/-- Settles O43: the line gives the step no reason to stop, and a step that answers adds one exchange. -/
theorem wellFormedLinesAreAnswered : Obligations.WellFormedLinesAreAnswered := by
  intro s l rest hp hwf hresults
  obtain ⟨hfault, hrefused⟩ := stepStopsOnlyForTheHost s
  cases hstep : step s with
  | next t =>
    rcases stepOnlyAddsOneExchange s t hstep with ⟨hnil, -⟩ | ⟨-, x, rfl⟩
    · cases hp.symm.trans hnil
    · exact ⟨x, by rw [hp, List.tail_cons]⟩
  | fault f =>
    obtain ⟨l', rest', k, hp', -, hk, hnone⟩ := hfault f hstep
    obtain ⟨rfl, -⟩ := List.cons.inj (hp.symm.trans hp')
    exact absurd hnone (hresults k hk)
  | refused q =>
    obtain ⟨l', rest', hp', hwhy⟩ := hrefused q hstep
    obtain ⟨rfl, -⟩ := List.cons.inj (hp.symm.trans hp')
    rcases hwhy with ⟨op, a, b, n, rfl, hop, -⟩ | ⟨c, rfl, hc, -⟩
    · exact absurd (wellFormed_ports_le hwf) (Nat.not_le_of_lt hop)
    · exact absurd hc (wellFormed_call_classified hwf)

end Sys2Proof.Machine

/-! # Proofs: several copies (60_exceptions.md section 12) -/

namespace Sys2Proof.Machine

theorem stepCopy_of_missing {j : Nat} {copies : List State} (h : copies[j]? = none) : stepCopy j copies = none := by
  simp only [stepCopy, h]

/-- A copy takes a step exactly where it is there and its own step answers a next state, and only it changes. -/
theorem stepCopy_eq_some_iff (j : Nat) (copies after : List State) :
    stepCopy j copies = some after ↔
      ∃ s t, copies[j]? = some s ∧ step s = .next t ∧ after = copies.set j t := by
  unfold stepCopy
  cases hcopy : copies[j]? with
  | none => simp
  | some s => cases hstep : step s <;> simp [hstep, eq_comm]

theorem stepCopies_pair (j k : Nat) (copies : List State) :
    stepCopies [j, k] copies = (stepCopy j copies).bind (stepCopy k) := by
  have hlast : stepCopies [k] = stepCopy k := funext fun c => Option.bind_fun_some (stepCopy k c)
  rw [stepCopies, hlast]

/-- Two copies take their steps exactly where each would in the list as it was. -/
theorem stepCopies_pair_eq_some_iff {j k : Nat} (hne : j ≠ k) (copies after : List State) :
    stepCopies [j, k] copies = some after ↔
      ∃ s t s' t', (copies[j]? = some s ∧ step s = .next t) ∧ (copies[k]? = some s' ∧ step s' = .next t') ∧
        after = (copies.set j t).set k t' := by
  have hother (t : State) : (copies.set j t)[k]? = copies[k]? := List.getElem?_set_ne hne
  simp only [stepCopies_pair, Option.bind_eq_some_iff, stepCopy_eq_some_iff]
  constructor
  · rintro ⟨_, ⟨s, t, hs, ht, rfl⟩, s', t', hs', ht', rfl⟩
    exact ⟨s, t, s', t', ⟨hs, ht⟩, ⟨(hother t).symm.trans hs', ht'⟩, rfl⟩
  · rintro ⟨s, t, s', t', ⟨hs, ht⟩, ⟨hs', ht'⟩, rfl⟩
    exact ⟨_, ⟨s, t, hs, ht, rfl⟩, s', t', (hother t).trans hs', ht', rfl⟩

/-- Steps of different copies in one order lead where they lead in the other. -/
theorem stepCopies_pair_swap {j k : Nat} (hne : j ≠ k) {copies after : List State}
    (h : stepCopies [j, k] copies = some after) : stepCopies [k, j] copies = some after := by
  obtain ⟨s, t, s', t', hj, hk, rfl⟩ := (stepCopies_pair_eq_some_iff hne ..).1 h
  exact (stepCopies_pair_eq_some_iff hne.symm ..).2 ⟨s', t', s, t, hk, hj, List.set_comm t t' hne⟩

/-- Settles O41: a copy's step depends on its own place of the list and changes only that. -/
theorem copiesDoNotInteract : Obligations.CopiesDoNotInteract := by
  refine ⟨fun j copies s hs => ⟨fun t ht => ?steps, fun hstop => ?stops⟩, fun j copies => stepCopy_of_missing,
    fun j k copies hne => ⟨Option.ext fun after => ?commute, fun after h => ?others⟩⟩
  case steps => exact (stepCopy_eq_some_iff ..).2 ⟨s, t, hs, ht, rfl⟩
  case stops =>
    rw [Option.eq_none_iff_forall_ne_some]
    intro after h
    obtain ⟨s', t, hs', ht, -⟩ := (stepCopy_eq_some_iff ..).1 h
    obtain rfl := Option.some.inj (hs.symm.trans hs')
    exact hstop t ht
  case commute => exact ⟨stepCopies_pair_swap hne, stepCopies_pair_swap hne.symm⟩
  case others =>
    obtain ⟨s, t, -, -, rfl⟩ := (stepCopy_eq_some_iff ..).1 h
    exact List.getElem?_set_ne hne

end Sys2Proof.Machine

/-! # Proofs: reading numbers (30_encoding.md section 6) -/

namespace Sys2Proof.Machine

/-- Lower case changes no digit's value (log entry 16). -/
theorem digitValue_toLower (c : Char) : digitValue c.toLower = digitValue c := by
  simp only [digitValue, toNat_toLower]
  grind

/-- Letters of either case, also mixed, read alike (log entry 16). -/
theorem readDigits_map_toLower (base acc : Nat) (cs : List Char) :
    readDigits base acc (cs.map Char.toLower) = readDigits base acc cs := by
  induction cs generalizing acc with
  | nil => rfl
  | cons c cs ih => rw [List.map_cons, readDigits, readDigits, digitValue_toLower, ih]

/-- The digits the library writes are read as the number, by induction on the number's quotients by the base. -/
theorem readDigits_toDigits {base : Nat} (h1 : 1 < base) (h16 : base ≤ 16) (v : Nat) :
    readDigits base 0 (Nat.toDigits base v) = some v := by
  induction v using Nat.strongRecOn with
  | ind v ih =>
    have hdigit (d : Nat) (hd : d < base) : digitValue (Nat.digitChar d) = d :=
      digitValue_digitChar d (hd.trans_le h16)
    rcases Nat.lt_or_ge v base with hlt | hge
    · rw [Nat.toDigits_of_lt_base hlt, readDigits, hdigit v hlt, if_pos hlt, readDigits, Nat.zero_mul, Nat.zero_add]
    · have hmod : v % base < base := Nat.mod_lt v (Nat.zero_lt_of_lt h1)
      rw [Nat.toDigits_of_base_le h1 hge, readDigits_append, ih (v / base) (Nat.div_lt_self (by omega) h1),
        Option.bind_some, hdigit _ hmod, if_pos hmod, Nat.div_add_mod']

/-- The same after zeros. -/
theorem readDigits_zeros_toDigits {base : Nat} (h1 : 1 < base) (h16 : base ≤ 16) (zeros v : Nat) :
    readDigits base 0 (List.replicate zeros '0' ++ Nat.toDigits base v) = some v := by
  rw [readDigits_zeros base zeros _ (Nat.zero_lt_of_lt h1), readDigits_toDigits h1 h16]

/-! ## The three bases -/

theorem readNumber_hexadecimal {cs : List Char} (h : cs ≠ []) : readNumber ('0' :: 'x' :: cs) = readDigits 16 0 cs := by
  cases cs with
  | nil => exact absurd rfl h
  | cons c cs => rfl

theorem readNumber_binary {cs : List Char} (h : cs ≠ []) : readNumber ('0' :: 'b' :: cs) = readDigits 2 0 cs := by
  cases cs with
  | nil => exact absurd rfl h
  | cons c cs => rfl

/-- A text without the letter of another base is read in decimal. -/
theorem readNumber_decimal {cs : List Char} (h : cs ≠ []) (hx : 'x' ∉ cs) (hb : 'b' ∉ cs) :
    readNumber cs = readDigits 10 0 cs := by
  unfold readNumber
  split
  case h_1 => exact absurd rfl h
  case h_2 => simp at hx
  case h_3 => simp at hb
  case h_4 => rfl

/-- A decimal number is written in decimal digits only. -/
theorem isDigit_of_mem_decimal {zeros v : Nat} {c : Char} (h : c ∈ List.replicate zeros '0' ++ Nat.toDigits 10 v) :
    c.isDigit = true := by
  rcases List.mem_append.1 h with h | h
  · rw [List.eq_of_mem_replicate h]
    rfl
  · exact Nat.isDigit_of_mem_toDigits (by decide) le_rfl h

theorem readNumber_toDigits (zeros v : Nat) :
    readNumber (List.replicate zeros '0' ++ Nat.toDigits 10 v) = some v := by
  have hletter (c : Char) (hc : c.isDigit = false) : c ∉ List.replicate zeros '0' ++ Nat.toDigits 10 v :=
    fun h => Bool.false_ne_true (hc.symm.trans (isDigit_of_mem_decimal h))
  rw [readNumber_decimal (List.append_ne_nil_of_right_ne_nil _ Nat.toDigits_ne_nil) (hletter _ rfl) (hletter _ rfl),
    readDigits_zeros_toDigits (by decide) (by decide)]

/-- Settles O44: the letter behind the 0, or none, selects the base, and in each base digits are read back, after
zeros and in either case. -/
theorem assemblerReadsTheThreeBases : Obligations.AssemblerReadsTheThreeBases := by
  refine fun v zeros => ⟨readNumber_toDigits zeros v, fun digits hdigits => ?hexadecimal, ?binary⟩
  case hexadecimal =>
    have hne : digits ≠ [] := by
      rintro rfl
      exact Nat.toDigits_ne_nil hdigits.symm
    rw [readNumber_hexadecimal (List.append_ne_nil_of_right_ne_nil _ hne), readDigits_zeros 16 zeros _ (by decide),
      ← readDigits_map_toLower, hdigits, readDigits_toDigits (by decide) le_rfl]
  case binary =>
    rw [readNumber_binary (List.append_ne_nil_of_right_ne_nil _ Nat.toDigits_ne_nil),
      readDigits_zeros_toDigits (by decide) (by decide)]

end Sys2Proof.Machine

/-! # Proofs: assembling a line (30_encoding.md section 6)

A line is cut once, for texts of any mnemonic and operands; the six mnemonics then differ in what they make of the operands
read. -/

namespace Sys2Proof.Statements

theorem OneOperand.ne_nil {t : List Char} (h : OneOperand t) : t ≠ [] := h.1

theorem OneOperand.space_not_mem {t : List Char} (h : OneOperand t) : ' ' ∉ t := h.2.1

theorem OneOperand.comma_not_mem {t : List Char} (h : OneOperand t) : ',' ∉ t := h.2.2.1

theorem OneOperand.equals_not_mem {t : List Char} (h : OneOperand t) : '=' ∉ t := h.2.2.2

theorem Writes.oneOperand {names : Machine.AsmNames} {t : List Char} {x : Machine.AsmOperand} (h : Writes names t x) :
    OneOperand t := h.1

end Sys2Proof.Statements

namespace Sys2Proof.Machine

/-! ## Cutting a line -/

theorem dropSpaces_of_head {t : List Char} (h : t.head? ≠ some ' ') : t.dropWhile (· == ' ') = t := by
  cases t with
  | nil => rfl
  | cons c cs => rw [List.dropWhile_cons_of_neg (by simpa using h)]

/-- A text is trimmed to itself where no space stands at an end. -/
theorem trimSpaces_of_ends {t : List Char} (hhead : t.head? ≠ some ' ') (hlast : t.getLast? ≠ some ' ') :
    trimSpaces t = t := by
  rw [← List.head?_reverse] at hlast
  rw [trimSpaces, dropSpaces_of_head hhead, dropSpaces_of_head hlast, List.reverse_reverse]

theorem head?_append_ne_space {m : List Char} (t : List Char) (h : Statements.OneOperand m) :
    (m ++ t).head? ≠ some ' ' := by
  rw [List.head?_append_of_ne_nil _ h.ne_nil]
  exact fun hc => h.space_not_mem (List.mem_of_head? hc)

theorem getLast?_append_ne_space (t : List Char) {u : List Char} (h : Statements.OneOperand u) :
    (t ++ u).getLast? ≠ some ' ' := by
  rw [List.getLast?_append_of_ne_nil _ h.ne_nil]
  exact fun hc => h.space_not_mem (List.mem_of_getLast? hc)

/-- The space between a name and the equals sign does not reach the name. -/
theorem trimSpaces_append_space {t : List Char} (h : Statements.OneOperand t) : trimSpaces (t ++ [' ']) = t := by
  have hlast : t.reverse.head? ≠ some ' ' := by
    rw [List.head?_reverse]
    exact getLast?_append_ne_space [] h
  rw [trimSpaces, dropSpaces_of_head (head?_append_ne_space _ h), List.reverse_append, List.reverse_singleton,
    List.singleton_append, List.dropWhile_cons_of_pos (p := (· == ' ')) rfl, dropSpaces_of_head hlast,
    List.reverse_reverse]

/-- The first word of a line is its mnemonic, and the pieces behind it are its operands. -/
theorem assembleBody_cut {names : AsmNames} {m t u : List Char} {xs : List AsmOperand} (hm : Statements.OneOperand m)
    (hu : Statements.OneOperand u)
    (hread : readOperands names ((piecesAt ',' (' ' :: (t ++ u))).map trimSpaces) = .ok xs) :
    assembleBody names (m ++ ' ' :: (t ++ u)) = assembleOperands m xs := by
  have htrim : trimSpaces (m ++ ' ' :: (t ++ u)) = m ++ ' ' :: (t ++ u) := by
    refine trimSpaces_of_ends (head?_append_ne_space _ hm) ?_
    rw [← List.cons_append, ← List.append_assoc]
    exact getLast?_append_ne_space _ hu
  have hword : ∀ c ∈ m, (c != ' ') = true := fun c hc => bne_iff_ne.2 fun h => hm.space_not_mem (h ▸ hc)
  have hdrop : (' ' :: (t ++ u)).dropWhile (· != ' ') = ' ' :: (t ++ u) := rfl
  have htake : (' ' :: (t ++ u)).takeWhile (· != ' ') = [] := rfl
  simp only [assembleBody, htrim, List.dropWhile_append_of_pos hword, List.takeWhile_append_of_pos hword, hdrop, htake,
    hread, List.append_nil]

/-- A text that writes an operand is read as it. -/
theorem readOperand_of_writes {names : AsmNames} {t : List Char} {x : AsmOperand} (h : Statements.Writes names t x) :
    readOperand names t = .ok x := by
  rcases h with ⟨-, ⟨v, hv, rfl⟩ | ⟨hnone, hlookup⟩⟩
  · simp only [readOperand, hv]
  · simp only [readOperand, hnone, hlookup]

theorem trimSpaces_operand {names : AsmNames} {t : List Char} {x : AsmOperand} (h : Statements.Writes names t x) :
    trimSpaces (' ' :: t) = t :=
  trimSpaces_of_not_mem h.oneOperand.space_not_mem

/-- The text is a body without a name, and it assembles to `l`. -/
def Assembles (names : AsmNames) (text : List Char) (l : HostLine) : Prop :=
  '=' ∉ text ∧ assembleBody names text = .ok l

theorem assembleLine_of_assembles {names : AsmNames} {text : List Char} {l : HostLine} (h : Assembles names text l) :
    assembleLine names text = .ok (none, l) := by
  obtain ⟨hequals, hbody⟩ := h
  simp only [assembleLine, piecesAt_of_not_mem hequals, hbody, Except.map]

theorem assembleLine_named {names : AsmNames} {name text : List Char} {l : HostLine} (hname : Statements.OneOperand name)
    (h : Assembles names text l) : assembleLine names (Statements.named name text) = .ok (some name, l) := by
  obtain ⟨hequals, hbody⟩ := h
  have hpieces : piecesAt '=' (Statements.named name text) = [name ++ [' '], ' ' :: text] := by
    have hsplit : Statements.named name text = (name ++ [' ']) ++ '=' :: (' ' :: text) := by
      simp [Statements.named]
    rw [hsplit, piecesAt_append (by simpa using hname.equals_not_mem) (by simpa using hequals)]
  simp only [assembleLine, hpieces, assembleBody_space_cons, hbody, trimSpaces_append_space hname, Except.map]

/-- A line of one operand. -/
theorem assembles_one {names : AsmNames} {m ta : List Char} {x : AsmOperand} {l : HostLine} (hm : Statements.OneOperand m)
    (ha : Statements.Writes names ta x) (hl : assembleOperands m [x] = .ok l) : Assembles names (m ++ ' ' :: ta) l := by
  have hpieces : piecesAt ',' (' ' :: ta) = [' ' :: ta] := piecesAt_of_not_mem (by simpa using ha.oneOperand.comma_not_mem)
  refine ⟨by simp [hm.equals_not_mem, ha.oneOperand.equals_not_mem], ?_⟩
  refine (assembleBody_cut (t := []) hm ha.oneOperand ?_).trans hl
  simp only [List.nil_append, hpieces, List.map, trimSpaces_operand ha, readOperands, readOperand_of_writes ha, Except.map]

/-- A line of two operands. -/
theorem assembles_two {names : AsmNames} {m ta tb : List Char} {x y : AsmOperand} {l : HostLine}
    (hm : Statements.OneOperand m) (ha : Statements.Writes names ta x) (hb : Statements.Writes names tb y)
    (hl : assembleOperands m [x, y] = .ok l) : Assembles names (m ++ ' ' :: (ta ++ [',', ' '] ++ tb)) l := by
  have hpieces : piecesAt ',' (' ' :: (ta ++ [',', ' '] ++ tb)) = [' ' :: ta, ' ' :: tb] := by
    have hsplit : ' ' :: (ta ++ [',', ' '] ++ tb) = (' ' :: ta) ++ ',' :: (' ' :: tb) := by simp
    rw [hsplit, piecesAt_append (by simpa using ha.oneOperand.comma_not_mem) (by simpa using hb.oneOperand.comma_not_mem)]
  refine ⟨by simp [hm.equals_not_mem, ha.oneOperand.equals_not_mem, hb.oneOperand.equals_not_mem],
    (assembleBody_cut hm hb.oneOperand ?_).trans hl⟩
  simp only [hpieces, List.map, trimSpaces_operand ha, trimSpaces_operand hb, readOperands, readOperand_of_writes ha,
    readOperand_of_writes hb, Except.map]

/-! ## What the mnemonics make of their operands -/

theorem operandSource_of_onPort {x : AsmOperand} {a : Source} (h : Statements.OnPort x a) : operandSource x = .ok a := by
  rcases h with ⟨v, rfl, rfl⟩ | ⟨k, rfl, rfl⟩
  · rw [operandSource, if_pos v.isLt, BitVec.ofNat_toNat, BitVec.setWidth_eq]
  · rfl

theorem assembleOne_ok {x : AsmOperand} {a : Source} (h : Statements.OnPort x a) :
    assembleOne [x] = .ok (.ports 0 a (.pattern 0) 0) := by
  rw [assembleOne, operandSource_of_onPort h]
  rfl

theorem assembleTwo_ok (op : OpCode) {x y : AsmOperand} {a b : Source} (hx : Statements.OnPort x a)
    (hy : Statements.OnPort y b) : assembleTwo op [x, y] = .ok (.ports op a b 0) := by
  simp only [assembleTwo, operandSource_of_onPort hx, operandSource_of_onPort hy]

theorem assembleShift_number (op : OpCode) (call : CallArg → CallArg → Call CallArg) {x : AsmOperand} {a : Source}
    (hx : Statements.OnPort x a) (n : Amount) :
    assembleShift op call [x, .number n.toNat] = .ok (.ports op a (.pattern 0) n) := by
  simp only [assembleShift, operandSource_of_onPort hx, if_pos n.isLt, BitVec.ofNat_toNat, BitVec.setWidth_eq]

theorem assembleShift_result (op : OpCode) (call : CallArg → CallArg → Call CallArg) {x : AsmOperand} {a : Source}
    (hx : Statements.OnPort x a) (k : Nat) :
    assembleShift op call [x, .result k] = .ok (.call (call (operandArg x) (.result k))) := by
  simp only [assembleShift, operandSource_of_onPort hx]

/-! ## The six lines -/

/-- The mnemonics hold no character that separates. -/
theorem oneOperand_mnemonic {m : List Char} (h : m ∈ [['N', 'O', 'T'], ['A', 'N', 'D'], ['O', 'R'], ['X', 'O', 'R'],
    ['L', 'S', 'H', 'I', 'F', 'T'], ['U', 'R', 'S', 'H', 'I', 'F', 'T']]) : Statements.OneOperand m := by
  revert m
  unfold Statements.OneOperand
  decide

section
variable {names : AsmNames} {ta tb : List Char} {xa xb : AsmOperand} {a b : Source}
  (ha : Statements.Writes names ta xa) (hb : Statements.Writes names tb xb)
include ha

theorem assembles_not (hxa : Statements.OnPort xa a) :
    Assembles names (['N', 'O', 'T', ' '] ++ ta) (.ports 0 a (.pattern 0) 0) :=
  assembles_one (m := ['N', 'O', 'T']) (oneOperand_mnemonic (by decide)) ha (assembleOne_ok hxa)

include hb

theorem assembles_and (hxa : Statements.OnPort xa a) (hxb : Statements.OnPort xb b) :
    Assembles names (['A', 'N', 'D', ' '] ++ ta ++ [',', ' '] ++ tb) (.ports 1 a b 0) :=
  assembles_two (m := ['A', 'N', 'D']) (oneOperand_mnemonic (by decide)) ha hb (assembleTwo_ok 1 hxa hxb)

theorem assembles_or (hxa : Statements.OnPort xa a) (hxb : Statements.OnPort xb b) :
    Assembles names (['O', 'R', ' '] ++ ta ++ [',', ' '] ++ tb) (.ports 2 a b 0) :=
  assembles_two (m := ['O', 'R']) (oneOperand_mnemonic (by decide)) ha hb (assembleTwo_ok 2 hxa hxb)

theorem assembles_xor (hxa : Statements.OnPort xa a) (hxb : Statements.OnPort xb b) :
    Assembles names (['X', 'O', 'R', ' '] ++ ta ++ [',', ' '] ++ tb) (.ports 3 a b 0) :=
  assembles_two (m := ['X', 'O', 'R']) (oneOperand_mnemonic (by decide)) ha hb (assembleTwo_ok 3 hxa hxb)

/-- What `LSHIFT` makes of its operands is what its line assembles to. -/
theorem assembles_lshift {l : HostLine} (hl : assembleShift 4 .lshift [xa, xb] = .ok l) :
    Assembles names (['L', 'S', 'H', 'I', 'F', 'T', ' '] ++ ta ++ [',', ' '] ++ tb) l :=
  assembles_two (m := ['L', 'S', 'H', 'I', 'F', 'T']) (oneOperand_mnemonic (by decide)) ha hb hl

theorem assembles_urshift {l : HostLine} (hl : assembleShift 5 .urshift [xa, xb] = .ok l) :
    Assembles names (['U', 'R', 'S', 'H', 'I', 'F', 'T', ' '] ++ ta ++ [',', ' '] ++ tb) l :=
  assembles_two (m := ['U', 'R', 'S', 'H', 'I', 'F', 'T']) (oneOperand_mnemonic (by decide)) ha hb hl

end

/-- Settles O46: the line of each mnemonic, with whatever its operands write. -/
theorem operandsAreNumbersOrNames : Obligations.OperandsAreNumbersOrNames := by
  intro names ta tb xa xb a b ha hb hxa
  refine ⟨assembleLine_of_assembles (assembles_not ha hxa), fun hxb => ⟨?and, ?or, ?xor⟩, fun n hn => ⟨?lshift, ?urshift⟩,
    fun k hk => ⟨?lshiftCall, ?urshiftCall⟩⟩
  case and => exact assembleLine_of_assembles (assembles_and ha hb hxa hxb)
  case or => exact assembleLine_of_assembles (assembles_or ha hb hxa hxb)
  case xor => exact assembleLine_of_assembles (assembles_xor ha hb hxa hxb)
  case lshift =>
    subst hn
    exact assembleLine_of_assembles (assembles_lshift ha hb (assembleShift_number 4 _ hxa n))
  case urshift =>
    subst hn
    exact assembleLine_of_assembles (assembles_urshift ha hb (assembleShift_number 5 _ hxa n))
  case lshiftCall =>
    subst hk
    exact assembleLine_of_assembles (assembles_lshift ha hb (assembleShift_result 4 _ hxa k))
  case urshiftCall =>
    subst hk
    exact assembleLine_of_assembles (assembles_urshift ha hb (assembleShift_result 5 _ hxa k))

/-! ## Operations written out -/

/-- The decimal digits of a number can stand as an operand. -/
theorem writes_toDigits (names : AsmNames) (v : Nat) : Statements.Writes names (Nat.toDigits 10 v) (.number v) := by
  have hdecimal (c : Char) (hc : c.isDigit = false) : c ∉ Nat.toDigits 10 v :=
    fun h => Bool.false_ne_true (hc.symm.trans (Nat.isDigit_of_mem_toDigits (by decide) le_rfl h))
  exact ⟨⟨Nat.toDigits_ne_nil, hdecimal _ rfl, hdecimal _ rfl, hdecimal _ rfl⟩, .inl ⟨v, readNumber_toDigits 0 v, rfl⟩⟩

theorem onPort_word (x : Word) : Statements.OnPort (.number x.toNat) (.pattern x) :=
  .inl ⟨x, rfl, rfl⟩

/-- An operation written out assembles to the line of its request. -/
theorem assembles_writeLine (names : AsmNames) (i : Instr) : Assembles names (writeLine i) (encode i).line := by
  have hw (v : Nat) := writes_toDigits names v
  cases i with
  | not a => exact assembles_not (hw _) (onPort_word a)
  | and a b => exact assembles_and (hw _) (hw _) (onPort_word a) (onPort_word b)
  | or a b => exact assembles_or (hw _) (hw _) (onPort_word a) (onPort_word b)
  | xor a b => exact assembles_xor (hw _) (hw _) (onPort_word a) (onPort_word b)
  | lshift a n => exact assembles_lshift (hw _) (hw _) (assembleShift_number 4 _ (onPort_word a) n)
  | urshift a n => exact assembles_urshift (hw _) (hw _) (assembleShift_number 5 _ (onPort_word a) n)

/-- Settles O45: the line assembles with and without a name, and a number is read before any name. -/
theorem writtenLinesAssembleToTheirRequest : Obligations.WrittenLinesAssembleToTheirRequest := by
  refine fun names i => ⟨assembleLine_of_assembles (assembles_writeLine names i), fun name hname =>
    ⟨assembleLine_named hname (assembles_writeLine names i), fun v k hv => ?_⟩⟩
  exact readOperand_of_writes ⟨hname, .inl ⟨v, hv, rfl⟩⟩

end Sys2Proof.Machine

/-! # Proofs: sequences with names (30_encoding.md section 6, 95_test_vectors.md section 4) -/

namespace Sys2Proof.Machine

/-! ## Assembling a sequence -/

theorem assembleFrom_cons {k : Nat} {names : AsmNames} {t : List Char} {ts : List (List Char)}
    {name : Option (List Char)} {l : HostLine} (h : assembleLine names t = .ok (name, l)) :
    assembleFrom k names (t :: ts) = (assembleFrom (k + 1) (namesAfter k names name) ts).map (l :: ·) := by
  simp only [assembleFrom, h]

/-- A line with no name leaves the names as they are. -/
theorem assembleFrom_unnamed {k : Nat} {names : AsmNames} {t : List Char} {ts : List (List Char)} {l : HostLine}
    (h : Assembles names t l) : assembleFrom k names (t :: ts) = (assembleFrom (k + 1) names ts).map (l :: ·) :=
  assembleFrom_cons (assembleLine_of_assembles h)

/-- A named line adds its name, for the result of its exchange. -/
theorem assembleFrom_named {k : Nat} {names : AsmNames} {name t : List Char} {ts : List (List Char)} {l : HostLine}
    (hname : Statements.OneOperand name) (h : Assembles names t l) :
    assembleFrom k names (Statements.named name t :: ts) =
      (assembleFrom (k + 1) ((name, .result k) :: names) ts).map (l :: ·) :=
  assembleFrom_cons (assembleLine_named hname h)

/-- The name just given writes the result of its exchange. -/
theorem writes_name {names : AsmNames} {name : List Char} (k : Nat) (h : Statements.IsName name) :
    Statements.Writes ((name, .result k) :: names) name (.result k) :=
  ⟨h.1, .inr ⟨h.2, List.lookup_cons_self⟩⟩

theorem onPort_result (k : Nat) : Statements.OnPort (.result k) (.result k) :=
  .inr ⟨k, rfl, rfl⟩

/-- The lines of an operation, and of NOT, AND and LSHIFT of the result of exchange `k` (by itself where there are two
operands). -/
def linesOnResult (i : Instr) (k : Nat) : List HostLine :=
  [(encode i).line, .ports 0 (.result k) (.pattern 0) 0, .ports 1 (.result k) (.result k) 0,
    .call (.lshift (.result k) (.result k))]

/-- The texts of a named operation and of the three on its name assemble to those lines. -/
theorem assembleFrom_linesOnResult (names : AsmNames) {name : List Char} (h : Statements.IsName name) (i : Instr) (k : Nat) :
    assembleFrom k names
      [Statements.named name (writeLine i), ['N', 'O', 'T', ' '] ++ name,
        ['A', 'N', 'D', ' '] ++ name ++ [',', ' '] ++ name,
        ['L', 'S', 'H', 'I', 'F', 'T', ' '] ++ name ++ [',', ' '] ++ name] = .ok (linesOnResult i k) := by
  have hw := writes_name (names := names) k h
  have hport := onPort_result k
  rw [assembleFrom_named h.1 (assembles_writeLine names i), assembleFrom_unnamed (assembles_not hw hport),
    assembleFrom_unnamed (assembles_and hw hw hport hport),
    assembleFrom_unnamed (assembles_lshift hw hw (assembleShift_result 4 _ hport k))]
  rfl

/-! ## Running it -/

theorem resultOf_eq_some_iff (s : State) (k : Nat) (v : Word) :
    s.resultOf k = some v ↔ ∃ x, s.log[k]? = some x ∧ x.response = .ok v := by
  unfold State.resultOf
  cases s.log[k]? with
  | none => simp
  | some x => cases hx : x.response <;> simp [Response.value?, hx]

/-- The newest exchange has its own result. -/
theorem resultOf_newest (pending : List HostLine) (log : List Exchange) {x : Exchange} {v : Word}
    (h : x.response = .ok v) : State.resultOf ⟨pending, log ++ [x]⟩ log.length = some v :=
  (resultOf_eq_some_iff ..).2 ⟨x, List.getElem?_concat_length, h⟩

/-- One more exchange changes no earlier result. -/
theorem resultOf_append {log : List Exchange} {pending : List HostLine} {k : Nat} {v : Word} (pending' : List HostLine)
    (y : Exchange) (h : State.resultOf ⟨pending, log⟩ k = some v) : State.resultOf ⟨pending', log ++ [y]⟩ k = some v := by
  obtain ⟨x, hx, hv⟩ := (resultOf_eq_some_iff ..).1 h
  exact (resultOf_eq_some_iff ..).2 ⟨x, (List.getElem?_append_left (List.getElem?_eq_some_iff.1 hx).1).trans hx, hv⟩

theorem readSource_result {s : State} {k : Nat} {v : Word} (h : s.resultOf k = some v) :
    readSource s (.result k) = .ok v := by
  simp only [readSource, h]

theorem readArg_result {s : State} {k : Nat} {v : Word} (h : s.resultOf k = some v) :
    readArg s (.result k) = .ok (.integer v.toNat) := by
  simp only [readArg, h]

/-- The step on a line that drives the ports, with the plain meaning of the operation they select. -/
theorem step_ports {s : State} {op : OpCode} {a b : Source} {n : Amount} {rest : List HostLine} {x y : Word} {i : Instr}
    (hp : s.pending = .ports op a b n :: rest) (ha : readSource s a = .ok x) (hb : readSource s b = .ok y)
    (hd : decode ⟨op, x, y, n⟩ = .ok i) :
    step s = .next { pending := rest, log := s.log ++ [.answered i (plainResponse i)] } := by
  rw [stepRunsThePresentedOperation s op a b n rest x y i hp ha hb hd, exec_eq_plain]

/-- What LSHIFT of a result by itself answers: the amount's check stands in front of the ports. -/
def shiftedByItself (v : Word) : Response :=
  if v.toNat ≤ 52 then .ok (BitVec.ofNat 53 (v.toNat * 2 ^ v.toNat)) else .error .invalidShiftAmount

/-- The step on a call of LSHIFT of a result by itself. -/
theorem exists_step_lshift_itself {s : State} {k : Nat} {v : Word} {rest : List HostLine}
    (hp : s.pending = .call (.lshift (.result k) (.result k)) :: rest) (h : s.resultOf k = some v) :
    ∃ x, step s = .next { pending := rest, log := s.log ++ [x] } ∧ x.response = shiftedByItself v := by
  have hread : readCall s (.lshift (.result k) (.result k)) =
      .ok (.lshift (.integer v.toNat) (.integer v.toNat)) := by
    simp only [readCall, both, readArg_result h]
  obtain ⟨hrequest, hrejected, -, -⟩ := stepRunsThePresentedCall s _ _ rest hp hread
  by_cases h52 : v.toNat ≤ 52
  · have hn : (BitVec.ofNat 6 v.toNat).toNat = v.toNat := Nat.mod_eq_of_lt (by omega)
    have hvalidate := validateShift_valid 4 v ((amount_valid_iff_le (BitVec.ofNat 6 v.toNat)).2 (by rwa [hn]))
    rw [hn] at hvalidate
    refine ⟨_, (hrequest _ _ hvalidate rfl).trans (exec_eq_plain _ _), ?_⟩
    rw [answered_response, plainResponse_lshift v (by rwa [hn]), shiftedByItself, if_pos h52, hn]
  · have hfails : (HostValue.integer v.toNat).FailsShift := by
      refine ⟨nofun, Bool.eq_false_of_not_eq_true fun hvalid => h52 ?_⟩
      obtain ⟨-, hlt⟩ := (validShift_integer _).1 hvalid
      exact Nat.le_of_lt_succ (Int.ofNat_lt.1 hlt)
    refine ⟨_, hrejected _ (validateShift_rejected 4 (validU53_word v) hfails), ?_⟩
    rw [rejectedCall_response, shiftedByItself, if_neg h52]

/-- Running the four lines, from any state whose next exchange gets the number they name. -/
theorem run_linesOnResult (s : State) {i : Instr} {v : Word} (h : respond i = .ok v) :
    ∃ t : State, Host.Core.run Sys2Proof.core 4 { s with pending := linesOnResult i s.log.length } = .next t ∧
      t.pending = [] ∧
      t.responses = s.responses ++ [.ok v, .ok (BitVec.ofNat 53 (2 ^ 53 - 1 - v.toNat)), .ok (v &&& v),
        shiftedByItself v] := by
  have hresult1 := resultOf_newest (linesOnResult i s.log.length).tail s.log (x := .answered i (respond i)) h
  have hresult2 := resultOf_append (linesOnResult i s.log.length).tail.tail (.answered (.not v) (plainResponse (.not v)))
    hresult1
  have hresult3 := resultOf_append (linesOnResult i s.log.length).tail.tail.tail
    (.answered (.and v v) (plainResponse (.and v v))) hresult2
  have h1 := step_of_line (s := { s with pending := linesOnResult i s.log.length }) rfl (decode_encode i)
  have h2 := step_ports rfl (readSource_result hresult1) rfl (decode_encode (.not v))
  have h3 := step_ports rfl (readSource_result hresult2) (readSource_result hresult2) (decode_encode (.and v v))
  obtain ⟨x, h4, hx⟩ := exists_step_lshift_itself rfl hresult3
  refine ⟨_, (run_succ_of_step 3 h1).trans ((run_succ_of_step 2 h2).trans ((run_succ_of_step 1 h3).trans
    ((run_succ_of_step 0 h4).trans rfl))), rfl, ?_⟩
  simp [State.responses, h, hx, plainResponse]

/-- Settles O47: the assembler's names feed the lines, and the run finds the result under the exchange's number. -/
theorem namedResultsFeedLaterLines : Obligations.NamedResultsFeedLaterLines := by
  refine fun names name i hname => ⟨fun k later => ⟨?named, ?unnamed, writes_name k hname⟩, fun s v h => ?run⟩
  case named => exact assembleFrom_named hname.1 (assembles_writeLine names i)
  case unnamed => exact assembleFrom_unnamed (assembles_writeLine names i)
  case run =>
    obtain ⟨t, hrun, hpending, hresponses⟩ := run_linesOnResult s h
    exact ⟨_, t, assembleFrom_linesOnResult names hname i s.log.length, hrun, hpending, hresponses⟩

end Sys2Proof.Machine
